-- ==== Sys2Proof/Word.lean ====
section
/-! DEFINITION. The word types of the core (spec/00_scope.md R9, R11): an 8-bit byte and a 16-bit address, and the number
of a general register. -/

namespace Sys2Proof

/-- The spec's `u8` (R9, R11): registers, memory cells, opcodes and operands. -/
abbrev Byte := BitVec 8

/-- The spec's `u16` (R9, R11): the program counter, the data pointer and the input of the bit router. -/
abbrev Addr := BitVec 16

/-- The number `n` of a general register `R[n]`, 0 to 7 (R9; spec/30_encoding.md R92). -/
abbrev Reg := Fin 8

end Sys2Proof
end

