-- ==== Sys2Proof/Config.lean ====
section
/-! DEFINITION. What is fixed for the machine: the default sizes and their limit (spec/00_scope.md R7, R8), the power-on
contents (spec/10_state.md R53) and the halt sentinel (spec/40_sequencer.md R121). The spec leaves no result open, so there
is no free value here. -/

namespace Sys2Proof.Config

/-- `CODE_SIZE` where none is given: "default 4096" (R7). -/
def defaultCodeSize : Nat := 4096

/-- `DATA_SIZE` where none is given: "default 128" (R7). -/
def defaultDataSize : Nat := 128

/-- The largest `CODE_SIZE` the spec admits (R8, decision D10; log 4). `DATA_SIZE` has no upper limit. -/
def maxCodeSize : Nat := 65535

/-- What a cell of code or data space that nothing has written holds (R53, decision D11; log 1). -/
def powerOnByte : Byte := 0x00#8

/-- The level of every pin at power-on: low (R53, decision D12; log 2). -/
def powerOnPin : Bool := false

/-- The halt sentinel, the one opcode byte the source itself gives (R121; spec/30_encoding.md R100). -/
def haltByte : Byte := 0xFF#8

end Sys2Proof.Config
end

