-- ==== Sys2Proof/Machine/State.lean ====
section
/-! DEFINITION. The machine's state (spec/10_state.md R20: "nothing else is state") as plain data, the reasons a step can
stop, and the state after reset (R54). -/

namespace Sys2Proof.Machine

/-- The two address spaces (spec/20_memory.md R60). -/
inductive Space where
  | code
  | data
  deriving DecidableEq, Repr

/-- The five error values with their payloads (spec/60_exceptions.md R250). -/
inductive ErrorValue where
  /-- `AddressError{space, addr, length}`: a code or data access at or above the configured length (spec/20_memory.md R61). -/
  | addressError (space : Space) (addr length : Nat)
  /-- `UnsupportedOpcode(opcode)`: no instruction form claims the byte (spec/30_encoding.md R103). -/
  | unsupportedOpcode (opcode : Byte)
  /-- `InvalidBitAddress(addr)`: no rule of the bit router claims the input (spec/45_setb_bit_router.md R231). -/
  | invalidBitAddress (addr : Addr)
  /-- `UnknownFlagBit(addr)`: an unnamed position of the flag range (spec/45_setb_bit_router.md R229). -/
  | unknownFlagBit (addr : Addr)
  /-- `ReadOnlyMemory(addr)`: a code-space bit address (spec/45_setb_bit_router.md R225). -/
  | readOnlyMemory (addr : Addr)
  deriving DecidableEq, Repr

/-- The run status (R20 item 4, R48; log 3). -/
inductive RunStatus where
  | running
  | halted
  | faulted (e : ErrorValue)
  deriving DecidableEq, Repr

/-- The seven flags, "seven independent booleans" (R26 to R31). -/
structure Flags where
  /-- Carry. -/
  cy : Bool
  /-- Auxiliary carry. -/
  ac : Bool
  /-- User flag 0. -/
  f0 : Bool
  /-- Register-bank select 1. -/
  rs1 : Bool
  /-- Register-bank select 0. -/
  rs0 : Bool
  /-- Overflow. -/
  ov : Bool
  /-- Parity. -/
  p : Bool
  deriving DecidableEq, Repr

/-- One byte array, `byte[length]` (R36), "allocated once at start with fixed sizes". `cells` lists, by strictly rising
address, the cells that do not hold `Config.powerOnByte`; every other cell below `length` holds that byte. -/
structure Memory where
  length : Nat
  cells : List Host.Cell
  deriving DecidableEq, Repr

/-- The 32 pin levels, port 0 to 3, bit 0 to 7 of each (R40); `true` is high. -/
abbrev Pins := Vector (Vector Bool 8) 4

/-- The complete state of the core (R20). `R0` to `R7` are cells 0 to 7 of `data` and no storage of their own (R24). -/
structure State where
  /-- `PC` (R21). -/
  pc : Addr
  /-- `A` (R22). -/
  a : Byte
  /-- `B` (R23). -/
  b : Byte
  /-- `DPTR` (R25). -/
  dptr : Addr
  /-- The status flags (R26). -/
  flags : Flags
  /-- Code space (R36; spec/20_memory.md R60). -/
  code : Memory
  /-- Data space (R36; spec/20_memory.md R60). -/
  data : Memory
  /-- The PinBus levels (R40). -/
  pins : Pins
  /-- The run status (R48). -/
  status : RunStatus
  deriving DecidableEq, Repr

/-- Why the machine takes no step. An error of the spec is none of these when it is raised: `raise` writes
`status <- FAULTED(e)` and that is a next state (spec/00_scope.md R15; log 6). -/
inductive Fault where
  /-- Raised by `step` alone, when `status = HALTED`: "the core takes no further step" (R48). Safe: the spec gives no next state. -/
  | runHalted
  /-- Raised by `step` alone, when `status = FAULTED(e)`: absorbing until reset (R48; spec/60_exceptions.md R261). Safe: the spec
  gives no next state. -/
  | runFaulted (e : ErrorValue)
  deriving DecidableEq, Repr

/-- What the model refuses to give a meaning. -/
inductive Refusal where
  /-- Raised by an arm of `exec` whose instruction has no meaning yet; no arm does. Safe. -/
  | notModelled (mnemonic : String)
  deriving DecidableEq, Repr

/-- The outcome of a step or of an instruction. -/
abbrev Result := Host.Outcome State Fault Refusal

/-- All seven flags `false` (R52). -/
def Flags.cleared : Flags :=
  { cy := false, ac := false, f0 := false, rs1 := false, rs0 := false, ov := false, p := false }

/-- A byte array at power-on: nothing listed, so every cell holds `Config.powerOnByte` (R53; log 1). -/
def Memory.powerOn (length : Nat) : Memory :=
  { length := length, cells := [] }

/-- Every pin at its power-on level (R53; log 2). -/
def Pins.powerOn : Pins :=
  Vector.replicate 4 (Vector.replicate 8 Config.powerOnPin)

/-- The machine right after reset: the power-on column of R54 with the default sizes and no program loaded. -/
def State.reset : State :=
  { pc := 0x0000#16
    a := 0x00#8
    b := 0x00#8
    dptr := 0x0000#16
    flags := Flags.cleared
    code := Memory.powerOn Config.defaultCodeSize
    data := Memory.powerOn Config.defaultDataSize
    pins := Pins.powerOn
    status := .running }

end Sys2Proof.Machine
end

