-- ==== Sys2Proof/Syntax.lean ====
section
/-! DEFINITION. The instructions (spec/30_encoding.md R98): one constructor per row of spec/opcode_table.json. -/

namespace Sys2Proof

/-- The twenty instruction forms and the halt sentinel of R98. `MOV Rn,A` has one constructor per row of the opcode table,
`R0` to `R6`: with `n = 7` its byte would be the halt sentinel, so that form has no encoding (R100; log 16). Every operand is
typed by its field (R92 to R95): a 3-bit register number or one byte. -/
inductive Instr where
  | clrA
  | cplA
  | movAImm (imm : Byte)
  | movARn (n : Reg)
  | movR0A
  | movR1A
  | movR2A
  | movR3A
  | movR4A
  | movR5A
  | movR6A
  | movDirectImm (direct imm : Byte)
  | movRnImm (n : Reg) (imm : Byte)
  | addAImm (imm : Byte)
  | addARn (n : Reg)
  | subAImm (imm : Byte)
  | subARn (n : Reg)
  | decA
  | decRn (n : Reg)
  | orlAImm (imm : Byte)
  | orlARn (n : Reg)
  | anlAImm (imm : Byte)
  | anlARn (n : Reg)
  | xrlAImm (imm : Byte)
  | xrlARn (n : Reg)
  | setb (bit : Byte)
  | halt
  deriving DecidableEq, Repr

/-- The number of bytes an instruction occupies (R90, R98). -/
def Instr.length : Instr → Nat
  | .clrA | .cplA | .decA | .halt => 1
  | .movARn _ | .addARn _ | .subARn _ | .decRn _ | .orlARn _ | .anlARn _ | .xrlARn _ => 1
  | .movR0A | .movR1A | .movR2A | .movR3A | .movR4A | .movR5A | .movR6A => 1
  | .movAImm _ | .addAImm _ | .subAImm _ | .orlAImm _ | .anlAImm _ | .xrlAImm _ => 2
  | .movRnImm _ _ => 2
  | .setb _ => 2
  | .movDirectImm _ _ => 3

/-- The number of bytes the sequencer consumes for an instruction: its length, but none for the halt sentinel, which is
"never consumed" (R98 row 21; spec/40_sequencer.md R121). -/
def Instr.consumed : Instr → Nat
  | .halt => 0
  | i => i.length

end Sys2Proof
end

