-- ==== Sys2Proof/WellFormed.lean ====
section
/-! DEFINITION. The checks on raw inputs: the two sizes (spec/00_scope.md R8), a program to load (spec/10_state.md R45) and
the bytes of one instruction (spec/30_encoding.md R90, R103, R105). A term of `Instr` needs no check: the types of its fields
admit exactly the operands that the encoding admits (R92 to R95, R104), so every term of `Instr` is well-formed. -/

namespace Sys2Proof

/-- The pair of sizes a core may be built with: `0 <= CODE_SIZE <= 65535`, any `DATA_SIZE` (R8). -/
def sizesWellFormed (codeSize _dataSize : Nat) : Bool :=
  decide (codeSize ≤ Config.maxCodeSize)

/-- A program that can be loaded into a code space of `codeSize` bytes: `L <= CODE_SIZE` (R45; spec/70_reset_and_hazards.md
R293 a). -/
def programWellFormed (codeSize : Nat) (program : List Byte) : Bool :=
  decide (program.length ≤ codeSize)

/-- How many bytes the instruction that an opcode byte begins has, or none for an unsupported byte. Written from the opcode
MAP (R99) and the list of unsupported bytes (R103), not from the match and mask columns that the decoder uses (R98). -/
def opcodeLength (op : Byte) : Option Nat :=
  let hi := op.toNat / 16
  let lo := op.toNat % 16
  if 8 ≤ lo then
    if hi ∈ [0x1, 0x2, 0x4, 0x5, 0x6, 0x9, 0xE, 0xF] then some 1
    else if hi = 0x7 then some 2
    else none
  else if lo = 4 then
    if hi ∈ [0x1, 0xE, 0xF] then some 1
    else if hi ∈ [0x2, 0x4, 0x5, 0x6, 0x7, 0x9] then some 2
    else none
  else if op = 0x75#8 then some 3
  else if op = 0xD2#8 then some 2
  else none

/-- The bytes are those of exactly one instruction: a supported opcode byte and as many operand bytes as it needs, each of
any value (R90, R104, R105). -/
def bytesWellFormed : List Byte → Bool
  | [] => false
  | op :: operands => opcodeLength op == some (operands.length + 1)

end Sys2Proof
end

