-- ==== Sys2Proof/Machine/Ops.lean ====
section
/-! DEFINITION. The named operations over the state: the two memories and their bounds check (spec/20_memory.md R61 to R65), the
registers `R[n]` (spec/10_state.md R24), the pins (R40), the flags as a byte (R34), taking an error (spec/00_scope.md R15;
spec/60_exceptions.md R260), fetching (spec/40_sequencer.md R124), reset, power-on and loading (spec/10_state.md R45, R52,
R53). -/

namespace Sys2Proof.Machine

/-! ### One byte array -/

/-- The byte listed at an address, or what an unlisted cell holds (spec/10_state.md R53). -/
def cellsGet : List Host.Cell → Nat → Byte
  | [], _ => Config.powerOnByte
  | (k, x) :: rest, addr => if addr = k then x else cellsGet rest addr

/-- The cells without the one listed at an address. -/
def cellsErase (cells : List Host.Cell) (addr : Nat) : List Host.Cell :=
  cells.filter (fun c => c.1 != addr)

/-- The cells with a byte listed at an address, kept in rising order. -/
def cellsInsert : List Host.Cell → Nat → Byte → List Host.Cell
  | [], addr, v => [(addr, v)]
  | (k, x) :: rest, addr, v =>
    if addr < k then (addr, v) :: (k, x) :: rest
    else if addr = k then (addr, v) :: rest
    else (k, x) :: cellsInsert rest addr v

/-- Replacing the byte at an address, in the canonical form: a byte that an unlisted cell holds is not listed. -/
def cellsSet (cells : List Host.Cell) (addr : Nat) (v : Byte) : List Host.Cell :=
  if v = Config.powerOnByte then cellsErase cells addr else cellsInsert cells addr v

/-- The byte a cell of the array holds, with no bounds check. -/
def Memory.get (m : Memory) (addr : Nat) : Byte :=
  cellsGet m.cells addr

/-- The array with one cell replaced, with no bounds check. -/
def Memory.set (m : Memory) (addr : Nat) (v : Byte) : Memory :=
  { m with cells := cellsSet m.cells addr v }

/-- The canonical form of an array: listed addresses strictly rising and below the length, and no listed byte equal to what
an unlisted cell holds. -/
abbrev Memory.wf (m : Memory) : Prop :=
  m.cells.Pairwise (fun x y => x.1 < y.1) ∧ ∀ c ∈ m.cells, c.1 < m.length ∧ c.2 ≠ Config.powerOnByte

/-- `MemRead(space, addr, 1)` on one array, with the bounds check of R61 (R62, R64). -/
def Memory.read (space : Space) (m : Memory) (addr : Nat) : Except ErrorValue Byte :=
  if m.length ≤ addr then .error (.addressError space addr m.length) else .ok (m.get addr)

/-- `MemWrite(space, addr, 1, v)` on one array, with the bounds check of R61 (R63, R65). -/
def Memory.write (space : Space) (m : Memory) (addr : Nat) (v : Byte) : Except ErrorValue Memory :=
  if m.length ≤ addr then .error (.addressError space addr m.length) else .ok (m.set addr v)

/-! ### Plain updates of the state -/

def State.setPc (s : State) (v : Addr) : State := { s with pc := v }

def State.setA (s : State) (v : Byte) : State := { s with a := v }

def State.setB (s : State) (v : Byte) : State := { s with b := v }

def State.setFlags (s : State) (v : Flags) : State := { s with flags := v }

def State.setCode (s : State) (v : Memory) : State := { s with code := v }

def State.setData (s : State) (v : Memory) : State := { s with data := v }

def State.setPins (s : State) (v : Pins) : State := { s with pins := v }

def State.setStatus (s : State) (v : RunStatus) : State := { s with status := v }

/-! ### The four access functions of AddressSpace -/

/-- `readCode(addr)` (R62). -/
def readCode (s : State) (addr : Nat) : Except ErrorValue Byte :=
  s.code.read .code addr

/-- `writeCode(addr, v)` (R63). -/
def writeCode (s : State) (addr : Nat) (v : Byte) : Except ErrorValue State :=
  match s.code.write .code addr v with
  | .error e => .error e
  | .ok m => .ok (s.setCode m)

/-- `readData(addr)` (R64). -/
def readData (s : State) (addr : Nat) : Except ErrorValue Byte :=
  s.data.read .data addr

/-- `writeData(addr, v)` (R65). -/
def writeData (s : State) (addr : Nat) (v : Byte) : Except ErrorValue State :=
  match s.data.write .data addr v with
  | .error e => .error e
  | .ok m => .ok (s.setData m)

/-! ### Taking an error -/

/-- `raise E(info)`: `status <- FAULTED(e)`, nothing saved, nothing undone, and control goes nowhere (spec/00_scope.md R15;
spec/60_exceptions.md R260). There is no return from it but a reset (R261). -/
def raise (e : ErrorValue) (s : State) : State :=
  s.setStatus (.faulted e)

/-- Goes on with the byte of a read, or raises its error in the state as it then stands (spec/00_scope.md R17). -/
def readThen (r : Except ErrorValue Byte) (s : State) (k : Byte → Result) : Result :=
  match r with
  | .error e => .next (raise e s)
  | .ok v => k v

/-- Goes on in the state a write leaves, or raises its error in the state as it then stands (spec/00_scope.md R17). -/
def writeThen (r : Except ErrorValue State) (s : State) (k : State → Result) : Result :=
  match r with
  | .error e => .next (raise e s)
  | .ok t => k t

/-! ### Registers `R[n]`: the first eight data cells, with no bank offset -/

/-- The data-space address of `R[n]`: `n`, whatever the bank-select flags hold (spec/10_state.md R24, R31). -/
def regAddress (n : Reg) : Nat :=
  n.val

/-- `R[n]` read: `MemRead(DATA, n, 1)` (spec/10_state.md R24; spec/00_scope.md R13). -/
def readReg (s : State) (n : Reg) : Except ErrorValue Byte :=
  readData s (regAddress n)

/-- `R[n] <- v`: `MemWrite(DATA, n, 1, v)` (spec/10_state.md R24; spec/00_scope.md R13). -/
def writeReg (s : State) (n : Reg) (v : Byte) : Except ErrorValue State :=
  writeData s (regAddress n) v

/-! ### Pins -/

/-- The level of `pin[p][k]`, the source's `isHigh()` (spec/10_state.md R40). -/
def State.pin (s : State) (p : Fin 4) (k : Fin 8) : Bool :=
  (s.pins.get p).get k

/-- `pin[p][k] <- true`, the source's `setHigh()` (spec/10_state.md R40). -/
def State.setPin (s : State) (p : Fin 4) (k : Fin 8) : State :=
  s.setPins (s.pins.set p ((s.pins.get p).set k true))

/-- The external reset routine of the PinBus: every pin low (spec/10_state.md R40, R44). It acts at power-on and never during a
run (decision D17; log 17). -/
def State.pinReset (s : State) : State :=
  s.setPins Pins.powerOn

/-! ### The flags as one byte -/

/-- A flag at a bit position of a byte. -/
def flagBit (v : Bool) (position : Nat) : Byte :=
  if v then 1#8 <<< position else 0#8

/-- `packedFlags()`, the read-only view `PSW`: bit 7 `CY`, 6 `AC`, 5 `F0`, 4 `RS1`, 3 `RS0`, 2 `OV`, 1 always 0, 0 `P`
(spec/10_state.md R34). -/
def Flags.packed (f : Flags) : Byte :=
  flagBit f.cy 7 ||| flagBit f.ac 6 ||| flagBit f.f0 5 ||| flagBit f.rs1 4 ||| flagBit f.rs0 3 ||| flagBit f.ov 2
    ||| flagBit f.p 0

/-- `PSW` (spec/10_state.md R34, R46). -/
def State.psw (s : State) : Byte :=
  s.flags.packed

/-! ### Fetching -/

/-- `Fetch()`: the byte at `PC`, then `PC <- trunc_16(PC + 1)`; where the read is refused `PC` keeps its value
(spec/40_sequencer.md R124). -/
def fetch (s : State) : Except ErrorValue (Byte × State) :=
  match readCode s s.pc.toNat with
  | .error e => .error e
  | .ok v => .ok (v, s.setPc (s.pc + 1#16))

/-! ### Reset, power-on, loading -/

/-- CPU reset, admitted in any status: ProcessorState to zero and `status <- RUNNING`; `code`, `data` and the pins are left as
they are (spec/10_state.md R52; spec/70_reset_and_hazards.md R290, R292; log 15). -/
def State.cpuReset (s : State) : State :=
  { s with
    pc := 0x0000#16
    a := 0x00#8
    b := 0x00#8
    dptr := 0x0000#16
    flags := Flags.cleared
    status := .running }

/-- Power-on with the two sizes, before loading: arrays of those sizes at their power-on contents, pins low, CPU reset
(spec/10_state.md R53; spec/70_reset_and_hazards.md R290). -/
def State.powerOn (codeSize dataSize : Nat) : State :=
  { State.reset.cpuReset with
    code := Memory.powerOn codeSize
    data := Memory.powerOn dataSize
    pins := Pins.powerOn }

/-- The loader's writes `code[first + i] <- b[i]`, in order (spec/10_state.md R45); the first write out of bounds is refused. -/
def loadBytes (s : State) (first : Nat) : List Byte → Except ErrorValue State
  | [] => .ok s
  | x :: rest =>
    match writeCode s first x with
    | .error e => .error e
    | .ok t => loadBytes t (first + 1) rest

/-- Loading a program: its bytes into code space from address 0 (spec/10_state.md R45; log 17). -/
def loadProgram (s : State) (program : List Byte) : Except ErrorValue State :=
  loadBytes s 0 program

/-- The cells of a byte array from `first` on replaced by bytes, as many as the array has cells for. -/
def Memory.place (m : Memory) (first : Nat) : List Byte → Memory
  | [] => m
  | x :: rest => (if first < m.length then m.set first x else m).place (first + 1) rest

/-- The state with bytes placed at `PC` in code space and the run status `RUNNING`, which is what the next fetch needs
(spec/40_sequencer.md R120). -/
def State.placeAtPc (s : State) (bytes : List Byte) : State :=
  (s.setCode (s.code.place s.pc.toNat bytes)).setStatus .running

end Sys2Proof.Machine
end

