-- ==== Sys2Proof/Machine/Flags.lean ====
section
/-! DEFINITION. Parity (spec/00_scope.md R16), the ALU as two pure functions (spec/43_arithmetic.md R170, R171) and the writing
of the flags (spec/43_arithmetic.md R173, R174). -/

namespace Sys2Proof.Machine

/-- The number of bits of a byte that are 1 (spec/00_scope.md R11). -/
def popcount (v : Byte) : Nat :=
  (List.range 8).countP (fun i => v.getLsbD i)

/-- `parity(v)`: true if and only if the number of set bits is even (spec/00_scope.md R16). -/
def parity (v : Byte) : Bool :=
  popcount v % 2 == 0

/-- The low nibble `v & 0xF` as a number. -/
def lowNibble (v : Byte) : Nat :=
  v.toNat % 16

/-- What the ALU answers: `(r, cy, ac, ov)`. -/
structure AluResult where
  r : Byte
  cy : Bool
  ac : Bool
  ov : Bool
  deriving DecidableEq, Repr

/-- `AluAdd(a, b)` (spec/43_arithmetic.md R170): exact sum, low 8 bits, carry out of bit 7, carry out of bit 3, and overflow
from the signs (R172). It reads no carry. -/
def aluAdd (a b : Byte) : AluResult :=
  let wide : Nat := a.toNat + b.toNat
  let r : Byte := BitVec.ofNat 8 wide
  { r := r
    cy := wide.testBit 8
    ac := decide (lowNibble a + lowNibble b ≥ 0x10)
    ov := a.msb == b.msb && r.msb != a.msb }

/-- `AluSub(a, b)` (spec/43_arithmetic.md R171): exact difference, low 8 bits, borrow, borrow from bit 4, and overflow from
the signs, `a` being the minuend (R172). It reads no borrow. -/
def aluSub (a b : Byte) : AluResult :=
  let wide : Int := (a.toNat : Int) - (b.toNat : Int)
  let r : Byte := BitVec.ofInt 8 wide
  { r := r
    cy := decide (a.toNat < b.toNat)
    ac := decide (lowNibble a < lowNibble b)
    ov := a.msb != b.msb && r.msb != a.msb }

/-- `P <- parity(v)`. -/
def writeParity (v : Byte) (s : State) : State :=
  s.setFlags { s.flags with p := parity v }

/-- `CY <- cy; AC <- ac; OV <- ov; P <- parity(r)`; `F0`, `RS1`, `RS0` are left alone (spec/43_arithmetic.md R173, R174). -/
def writeArithFlags (x : AluResult) (s : State) : State :=
  s.setFlags { s.flags with cy := x.cy, ac := x.ac, ov := x.ov, p := parity x.r }

/-- `A <- v; P <- parity(v)`: the end of every move and logic form that writes `A` (spec/42_mov.md R152, R153;
spec/44_logic.md R200). -/
def accWithParity (v : Byte) (s : State) : State :=
  writeParity v (s.setA v)

/-- `A <- r` and the four arithmetic flags: the end of every arithmetic form on `A` (spec/43_arithmetic.md R175 to R179). -/
def accWithArith (x : AluResult) (s : State) : State :=
  writeArithFlags x (s.setA x.r)

end Sys2Proof.Machine
end

