-- ==== Sys2Proof/Machine/Operands.lean ====
section
/-! DEFINITION. The operand forms (spec/42_mov.md R151): immediate (the operand byte itself, spec/30_encoding.md R93),
accumulator, register, direct code address, and bit address with its router (spec/45_setb_bit_router.md R222 to R233). -/

namespace Sys2Proof.Machine

/-- `zext_16(v)` (spec/00_scope.md R11). -/
def zext16 (v : Byte) : Addr :=
  BitVec.setWidth 16 v

/-- The code-space address that `direct` names: `zext_16(direct)` (spec/30_encoding.md R94). -/
def directAddress (direct : Byte) : Nat :=
  (zext16 direct).toNat

/-- Reads `R[n]` and goes on with its value, or raises. -/
def withRegister (n : Reg) (s : State) (k : Byte → Result) : Result :=
  readThen (readReg s n) s k

/-- Writes `R[n]` and goes on, or raises with nothing written. -/
def storeRegister (n : Reg) (v : Byte) (s : State) (k : State → Result) : Result :=
  writeThen (writeReg s n v) s k

/-- Writes the code-space cell that `direct` names and goes on, or raises with nothing written. -/
def storeDirect (direct v : Byte) (s : State) (k : State → Result) : Result :=
  writeThen (writeCode s (directAddress direct) v) s k

/-! ### The bit router -/

/-- What the bit router selects: one physical bit (spec/10_state.md R37). -/
inductive BitTarget where
  /-- Bit `bitPos` of `data[byteIndex]` (spec/45_setb_bit_router.md R224). -/
  | dataBit (byteIndex : Nat) (bitPos : Fin 8)
  /-- A bit of `A` (R226). -/
  | accBit (bitPos : Fin 8)
  /-- A bit of `B` (R227). -/
  | bRegBit (bitPos : Fin 8)
  /-- The carry flag (R228). -/
  | carry
  /-- The overflow flag (R229). -/
  | overflow
  /-- The auxiliary-carry flag (R229). -/
  | auxCarry
  /-- The parity flag (R229). -/
  | parityFlag
  /-- `pin[port][bitPos]` (R230). -/
  | pin (port : Fin 4) (bitPos : Fin 8)
  deriving DecidableEq, Repr

/-- `addr & 7`. -/
def bitPosition (addr : Addr) : Fin 8 :=
  Fin.ofNat 8 (addr &&& 7#16).toNat

/-- The flag range of the router: bit position 2, 4 or 5 (spec/45_setb_bit_router.md R229). -/
def routeFlag (addr : Addr) : Except ErrorValue BitTarget :=
  if bitPosition addr = 2 then .ok .overflow
  else if bitPosition addr = 4 then .ok .auxCarry
  else if bitPosition addr = 5 then .ok .parityFlag
  else .error (.unknownFlagBit addr)

/-- The selection `BitRoute` makes, on the whole 16-bit domain and in the spec's priority order
(spec/45_setb_bit_router.md R222, R223). It reads no state (R233). -/
def routeBit (addr : Addr) : Except ErrorValue BitTarget :=
  if addr ≤ 0x007F#16 then .ok (.dataBit (addr >>> 3).toNat (bitPosition addr))
  else if 0x2000#16 ≤ addr ∧ addr ≤ 0x2FFF#16 then .error (.readOnlyMemory addr)
  else if addr = 0x00E0#16 then .ok (.accBit (bitPosition addr))
  else if addr = 0x00F0#16 then .ok (.bRegBit (bitPosition addr))
  else if addr = 0x00D0#16 then .ok .carry
  else if 0x00B0#16 ≤ addr ∧ addr ≤ 0x00B7#16 then routeFlag addr
  else if 0x0080#16 ≤ addr ∧ addr ≤ 0x0087#16 then .ok (.pin 0 (bitPosition addr))
  else if 0x0090#16 ≤ addr ∧ addr ≤ 0x0097#16 then .ok (.pin 1 (bitPosition addr))
  else if 0x00A0#16 ≤ addr ∧ addr ≤ 0x00A7#16 then .ok (.pin 2 (bitPosition addr))
  else .error (.invalidBitAddress addr)

/-- `v | (1 << bitPos)`. -/
def orBit (v : Byte) (bitPos : Fin 8) : Byte :=
  v ||| (1#8 <<< bitPos.val)

/-- Sets the selected bit to 1 and touches nothing else (spec/45_setb_bit_router.md R223, R233). A data bit is one read and one
write of the same cell (spec/20_memory.md R66). -/
def setTarget (t : BitTarget) (s : State) : Result :=
  match t with
  | .dataBit i k =>
    readThen (readData s i) s (fun v => writeThen (writeData s i (orBit v k)) s (fun s1 => .next s1))
  | .accBit k => .next (s.setA (orBit s.a k))
  | .bRegBit k => .next (s.setB (orBit s.b k))
  | .carry => .next (s.setFlags { s.flags with cy := true })
  | .overflow => .next (s.setFlags { s.flags with ov := true })
  | .auxCarry => .next (s.setFlags { s.flags with ac := true })
  | .parityFlag => .next (s.setFlags { s.flags with p := true })
  | .pin p k => .next (s.setPin p k)

/-- `BitRoute(addr)` (spec/45_setb_bit_router.md R223). -/
def bitRoute (addr : Addr) (s : State) : Result :=
  match routeBit addr with
  | .error e => .next (raise e s)
  | .ok t => setTarget t s

end Sys2Proof.Machine
end

