-- ==== Sys2Proof/Machine/Arith.lean ====
section
/-! DEFINITION. The arithmetic instructions (spec/43_arithmetic.md). Each writes `CY`, `AC`, `OV` and `P` on every completed
execution (R174). -/

namespace Sys2Proof.Machine

/-- `ADD A,#imm` (R175). -/
def execAddAImm (imm : Byte) (s : State) : Result :=
  .next (accWithArith (aluAdd s.a imm) s)

/-- `ADD A,Rn` (R176). -/
def execAddARn (n : Reg) (s : State) : Result :=
  withRegister n s (fun v => .next (accWithArith (aluAdd s.a v) s))

/-- `SUB A,#imm` (R177). -/
def execSubAImm (imm : Byte) (s : State) : Result :=
  .next (accWithArith (aluSub s.a imm) s)

/-- `SUB A,Rn` (R178). -/
def execSubARn (n : Reg) (s : State) : Result :=
  withRegister n s (fun v => .next (accWithArith (aluSub s.a v) s))

/-- `DEC A` (R179). -/
def execDecA (s : State) : Result :=
  .next (accWithArith (aluSub s.a 0x01#8) s)

/-- `DEC Rn` (R180): the register cell is the minuend, and `A` is neither read nor written. -/
def execDecRn (n : Reg) (s : State) : Result :=
  withRegister n s (fun v =>
    storeRegister n (aluSub v 0x01#8).r s (fun s1 => .next (writeArithFlags (aluSub v 0x01#8) s1)))

end Sys2Proof.Machine
end

