-- ==== Sys2Proof/Machine/Logic.lean ====
section
/-! DEFINITION. The logic instructions (spec/44_logic.md): bit by bit on `A`, and only `P` is recomputed (R200). -/

namespace Sys2Proof.Machine

/-- `ORL A,#imm` (R201). -/
def execOrlAImm (imm : Byte) (s : State) : Result :=
  .next (accWithParity (s.a ||| imm) s)

/-- `ORL A,Rn` (R202). -/
def execOrlARn (n : Reg) (s : State) : Result :=
  withRegister n s (fun v => .next (accWithParity (s.a ||| v) s))

/-- `ANL A,#imm` (R203). -/
def execAnlAImm (imm : Byte) (s : State) : Result :=
  .next (accWithParity (s.a &&& imm) s)

/-- `ANL A,Rn` (R204). -/
def execAnlARn (n : Reg) (s : State) : Result :=
  withRegister n s (fun v => .next (accWithParity (s.a &&& v) s))

/-- `XRL A,#imm` (R205). -/
def execXrlAImm (imm : Byte) (s : State) : Result :=
  .next (accWithParity (s.a ^^^ imm) s)

/-- `XRL A,Rn` (R206). -/
def execXrlARn (n : Reg) (s : State) : Result :=
  withRegister n s (fun v => .next (accWithParity (s.a ^^^ v) s))

end Sys2Proof.Machine
end

