-- ==== Sys2Proof/Machine/Mov.lean ====
section
/-! DEFINITION. The data-transfer instructions (spec/42_mov.md). -/

namespace Sys2Proof.Machine

/-- `MOV A,#imm` (R152). -/
def execMovAImm (imm : Byte) (s : State) : Result :=
  .next (accWithParity imm s)

/-- `MOV A,Rn` (R153). -/
def execMovARn (n : Reg) (s : State) : Result :=
  withRegister n s (fun v => .next (accWithParity v s))

/-- `MOV Rn,A` at decoder level, for `n` in 0..7; flags untouched (R154). The sequencer reaches it with `n` in 0..6 only (R100;
log 16). -/
def movRnA (n : Reg) (s : State) : Result :=
  storeRegister n s.a s (fun s1 => .next s1)

/-- `MOV R0,A` (R154). -/
def execMovR0A (s : State) : Result := movRnA 0 s

/-- `MOV R1,A` (R154). -/
def execMovR1A (s : State) : Result := movRnA 1 s

/-- `MOV R2,A` (R154). -/
def execMovR2A (s : State) : Result := movRnA 2 s

/-- `MOV R3,A` (R154). -/
def execMovR3A (s : State) : Result := movRnA 3 s

/-- `MOV R4,A` (R154). -/
def execMovR4A (s : State) : Result := movRnA 4 s

/-- `MOV R5,A` (R154). -/
def execMovR5A (s : State) : Result := movRnA 5 s

/-- `MOV R6,A` (R154). -/
def execMovR6A (s : State) : Result := movRnA 6 s

/-- `MOV direct,#imm` (R156): the destination is code space (spec/90_conflicts.md C5), and the write comes before the flag. -/
def execMovDirectImm (direct imm : Byte) (s : State) : Result :=
  storeDirect direct imm s (fun s1 => .next (writeParity imm s1))

/-- `MOV Rn,#imm` (R157): the write comes before the flag, and the parity is the immediate's. -/
def execMovRnImm (n : Reg) (imm : Byte) (s : State) : Result :=
  storeRegister n imm s (fun s1 => .next (writeParity imm s1))

end Sys2Proof.Machine
end

