-- ==== Sys2Proof/Decode.lean ====
section
/-! DEFINITION. Decoding and encoding (spec/30_encoding.md). The decoder is written over an abstract source of bytes, so that
the list decoder below and the machine's own fetching (Machine/Sequencer.lean) are the same text: the opcode byte selects a
form, and the form asks for its operand bytes one at a time, left to right (R90, R96, R105). -/

namespace Sys2Proof

/-- What an opcode byte alone settles (R90): the instruction, up to the operand bytes still to be fetched. -/
inductive OpForm where
  /-- Formats `A0` and `R0`: no operand byte. -/
  | ready (i : Instr)
  /-- Formats `AI`, `RI` and `BT`: one operand byte. -/
  | one (mk : Byte → Instr)
  /-- Format `DI`: two operand bytes, in this order. -/
  | two (mk : Byte → Byte → Instr)

/-- How many operand bytes a form still needs (R105). -/
def OpForm.operandCount : OpForm → Nat
  | .ready _ => 0
  | .one _ => 1
  | .two _ => 2

/-- One row of the opcode table R98: the form is selected when `op & mask = bits`. -/
structure OpRow where
  bits : Byte
  mask : Byte
  form : Reg → OpForm

/-- `n = opcode[2:0]` (R92). -/
def regField (op : Byte) : Reg :=
  Fin.ofNat 8 (op.toNat % 8)

/-- A row that matches one byte. -/
def exactRow (op : Byte) (form : OpForm) : OpRow :=
  { bits := op, mask := 0xFF#8, form := fun _ => form }

/-- A row `base+n` (R97): it matches when `op & 0xF8 = base`, and then `n = op & 7`. -/
def regRow (base : Byte) (form : Reg → OpForm) : OpRow :=
  { bits := base, mask := 0xF8#8, form := form }

/-- Rows 1, 2 and 12 of R98. -/
def unaryRows : List OpRow :=
  [ exactRow 0xE4#8 (.ready .clrA)
  , exactRow 0xF4#8 (.ready .cplA)
  , exactRow 0x14#8 (.ready .decA) ]

/-- Row 5 of R98, as the seven exact rows of spec/opcode_table.json (spec/90_conflicts.md C13). -/
def movRnARows : List OpRow :=
  [ exactRow 0xF8#8 (.ready .movR0A)
  , exactRow 0xF9#8 (.ready .movR1A)
  , exactRow 0xFA#8 (.ready .movR2A)
  , exactRow 0xFB#8 (.ready .movR3A)
  , exactRow 0xFC#8 (.ready .movR4A)
  , exactRow 0xFD#8 (.ready .movR5A)
  , exactRow 0xFE#8 (.ready .movR6A) ]

/-- Rows 3, 4, 6 and 7 of R98. -/
def movRows : List OpRow :=
  [ exactRow 0x74#8 (.one .movAImm)
  , regRow 0xE8#8 (fun n => .ready (.movARn n))
  , exactRow 0x75#8 (.two .movDirectImm)
  , regRow 0x78#8 (fun n => .one (.movRnImm n)) ]

/-- Rows 8 to 11 and 13 of R98. -/
def arithRows : List OpRow :=
  [ exactRow 0x24#8 (.one .addAImm)
  , regRow 0x28#8 (fun n => .ready (.addARn n))
  , exactRow 0x94#8 (.one .subAImm)
  , regRow 0x98#8 (fun n => .ready (.subARn n))
  , regRow 0x18#8 (fun n => .ready (.decRn n)) ]

/-- Rows 14 to 19 of R98. -/
def logicRows : List OpRow :=
  [ exactRow 0x44#8 (.one .orlAImm)
  , regRow 0x48#8 (fun n => .ready (.orlARn n))
  , exactRow 0x54#8 (.one .anlAImm)
  , regRow 0x58#8 (fun n => .ready (.anlARn n))
  , exactRow 0x64#8 (.one .xrlAImm)
  , regRow 0x68#8 (fun n => .ready (.xrlARn n)) ]

/-- Row 20 of R98. -/
def setbRows : List OpRow :=
  [ exactRow 0xD2#8 (.one .setb) ]

/-- The opcode table of R98, rows 1 to 20. Row 21, the halt sentinel, is not here: "the Decoder never sees it" (R100). The
byte values are the spec's decision D1 (log 5), and this table and `encode` are the only places that hold them. -/
def opcodeTable : List OpRow :=
  unaryRows ++ movRnARows ++ movRows ++ arithRows ++ logicRows ++ setbRows

/-- Whether a row of the table claims an opcode byte (R97). -/
def OpRow.claims (r : OpRow) (op : Byte) : Bool :=
  op &&& r.mask == r.bits

/-- The decoding procedure R97: the form of the row that claims the byte, or none for an unsupported byte (R103). -/
def decodeOpcode (op : Byte) : Option OpForm :=
  (opcodeTable.find? (fun r => r.claims op)).map (fun r => r.form (regField op))

/-- Fetching the operand bytes of a form from a source `next`, one at a time and left to right (R96). A source that refuses a
byte stops the instruction there, with the earlier bytes consumed. -/
def OpForm.complete {σ ε : Type} (next : σ → Except ε (Byte × σ)) : OpForm → σ → Except (ε × σ) (Instr × σ)
  | .ready i, s => .ok (i, s)
  | .one mk, s =>
    match next s with
    | .error e => .error (e, s)
    | .ok (x, s1) => .ok (mk x, s1)
  | .two mk, s =>
    match next s with
    | .error e => .error (e, s)
    | .ok (x, s1) =>
      match next s1 with
      | .error e => .error (e, s1)
      | .ok (y, s2) => .ok (mk x y, s2)

/-- Why a list of bytes is no instruction. -/
inductive DecodeError where
  /-- The list ends before the instruction does. -/
  | endOfBytes
  /-- No row of the table claims the opcode byte (R103). -/
  | unsupportedOpcode (op : Byte)
  deriving DecidableEq, Repr

/-- A list of bytes as a source of bytes. -/
def nextByte : List Byte → Except DecodeError (Byte × List Byte)
  | [] => .error .endOfBytes
  | x :: rest => .ok (x, rest)

/-- The instruction at the front of a list of bytes, as seen at an instruction boundary: the halt test first (R100, R121),
then the opcode, then the operand bytes; with the rest of the list. Total, and rejecting by name. -/
def decode : List Byte → Except DecodeError (Instr × List Byte)
  | [] => .error .endOfBytes
  | op :: rest =>
    if op = Config.haltByte then .ok (.halt, rest)
    else
      match decodeOpcode op with
      | none => .error (.unsupportedOpcode op)
      | some form =>
        match form.complete nextByte rest with
        | .ok r => .ok r
        | .error (e, _) => .error e

/-- An opcode byte `base + n` (R91, R92). -/
def withReg (base : Byte) (n : Reg) : Byte :=
  base + BitVec.ofNat 8 n.val

/-- The bytes of an instruction, lowest address first (R91, R98). -/
def encode : Instr → List Byte
  | .clrA => [0xE4#8]
  | .cplA => [0xF4#8]
  | .movAImm imm => [0x74#8, imm]
  | .movARn n => [withReg 0xE8#8 n]
  | .movR0A => [0xF8#8]
  | .movR1A => [0xF9#8]
  | .movR2A => [0xFA#8]
  | .movR3A => [0xFB#8]
  | .movR4A => [0xFC#8]
  | .movR5A => [0xFD#8]
  | .movR6A => [0xFE#8]
  | .movDirectImm direct imm => [0x75#8, direct, imm]
  | .movRnImm n imm => [withReg 0x78#8 n, imm]
  | .addAImm imm => [0x24#8, imm]
  | .addARn n => [withReg 0x28#8 n]
  | .subAImm imm => [0x94#8, imm]
  | .subARn n => [withReg 0x98#8 n]
  | .decA => [0x14#8]
  | .decRn n => [withReg 0x18#8 n]
  | .orlAImm imm => [0x44#8, imm]
  | .orlARn n => [withReg 0x48#8 n]
  | .anlAImm imm => [0x54#8, imm]
  | .anlARn n => [withReg 0x58#8 n]
  | .xrlAImm imm => [0x64#8, imm]
  | .xrlARn n => [withReg 0x68#8 n]
  | .setb bit => [0xD2#8, bit]
  | .halt => [0xFF#8]

/-- The three bytes of an instruction whose bits are `w`, numbered from bit 0 of the first byte; every bit at or above
`nbits` is 0. -/
def tableBytes (nbits w : Nat) : List Byte :=
  let v := w % 2 ^ nbits
  [BitVec.ofNat 8 v, BitVec.ofNat 8 (v / 256), BitVec.ofNat 8 (v / 65536)]

/-- The instruction the decoder reads from an instruction whose bits are `w`, numbered as spec/opcode_table.json numbers them;
none where the decoder refuses. -/
def decodeTableWord (nbits w : Nat) : Option Instr :=
  match decode (tableBytes nbits w) with
  | .ok (i, _) => some i
  | .error _ => none

end Sys2Proof
end

