-- ==== Sys2Proof/Machine/Sequencer.lean ====
section
/-! DEFINITION. The sequencer (spec/40_sequencer.md): the halt sentinel's meaning and the fetching of one instruction. -/

namespace Sys2Proof.Machine

/-- The halt sentinel: `status <- HALTED` and nothing else; `PC` is not advanced (R121). -/
def execHalt (s : State) : Result :=
  .next (s.setStatus .halted)

/-- The part of `Step()` before an instruction's own effect: the halt test, then `Fetch()` for the opcode, then the decoder's
`Fetch()` for each operand byte (R120, R124, R127; spec/30_encoding.md R96, R97). It answers the instruction and the state
with `PC` past the bytes consumed, or the first error with the state as the fetches that succeeded left it (R126;
spec/60_exceptions.md R252, R259). The halt sentinel consumes nothing (R121). -/
def fetchInstr (s : State) : Except (ErrorValue × State) (Instr × State) :=
  match readCode s s.pc.toNat with
  | .error e => .error (e, s)
  | .ok first =>
    if first = Config.haltByte then .ok (.halt, s)
    else
      match fetch s with
      | .error e => .error (e, s)
      | .ok (op, s1) =>
        match decodeOpcode op with
        | none => .error (.unsupportedOpcode op, s1)
        | some form => form.complete fetch s1

end Sys2Proof.Machine
end

