-- ==== Sys2Proof/Machine/Setb.lean ====
section
/-! DEFINITION. `SETB bit` (spec/45_setb_bit_router.md R220). -/

namespace Sys2Proof.Machine

/-- `SETB bit`: the router on the zero-extended operand byte (R220, R222). -/
def execSetb (bit : Byte) (s : State) : Result :=
  bitRoute (zext16 bit) s

end Sys2Proof.Machine
end

