-- ==== Sys2Proof/Machine/Unary.lean ====
section
/-! DEFINITION. The accumulator unary instructions (spec/41_accumulator_unary.md). A meaning runs after the sequencer has fetched
the instruction's bytes, so `PC` already points past them (R140). -/

namespace Sys2Proof.Machine

/-- `CLR A` (R141). -/
def execClrA (s : State) : Result :=
  .next (accWithParity 0x00#8 s)

/-- `CPL A` (R142). -/
def execCplA (s : State) : Result :=
  .next (accWithParity (~~~s.a) s)

end Sys2Proof.Machine
end

