-- ==== Sys2Proof/Machine/Dispatch.lean ====
section
/-! DEFINITION. `Execute` on a decoded instruction (spec/40_sequencer.md R127): one arm per constructor of `Instr`, each one
call of that instruction's meaning. -/

namespace Sys2Proof.Machine

-- The state is the one after the instruction's bytes have been fetched, except for the halt sentinel, which is never fetched.
def exec (i : Instr) (s : State) : Host.Outcome State Fault Refusal :=
  match i with
  | .clrA => Sys2Proof.Machine.execClrA s
  | .cplA => Sys2Proof.Machine.execCplA s
  | .movAImm imm => Sys2Proof.Machine.execMovAImm imm s
  | .movARn n => Sys2Proof.Machine.execMovARn n s
  | .movR0A => Sys2Proof.Machine.execMovR0A s
  | .movR1A => Sys2Proof.Machine.execMovR1A s
  | .movR2A => Sys2Proof.Machine.execMovR2A s
  | .movR3A => Sys2Proof.Machine.execMovR3A s
  | .movR4A => Sys2Proof.Machine.execMovR4A s
  | .movR5A => Sys2Proof.Machine.execMovR5A s
  | .movR6A => Sys2Proof.Machine.execMovR6A s
  | .movDirectImm direct imm => Sys2Proof.Machine.execMovDirectImm direct imm s
  | .movRnImm n imm => Sys2Proof.Machine.execMovRnImm n imm s
  | .addAImm imm => Sys2Proof.Machine.execAddAImm imm s
  | .addARn n => Sys2Proof.Machine.execAddARn n s
  | .subAImm imm => Sys2Proof.Machine.execSubAImm imm s
  | .subARn n => Sys2Proof.Machine.execSubARn n s
  | .decA => Sys2Proof.Machine.execDecA s
  | .decRn n => Sys2Proof.Machine.execDecRn n s
  | .orlAImm imm => Sys2Proof.Machine.execOrlAImm imm s
  | .orlARn n => Sys2Proof.Machine.execOrlARn n s
  | .anlAImm imm => Sys2Proof.Machine.execAnlAImm imm s
  | .anlARn n => Sys2Proof.Machine.execAnlARn n s
  | .xrlAImm imm => Sys2Proof.Machine.execXrlAImm imm s
  | .xrlARn n => Sys2Proof.Machine.execXrlARn n s
  | .setb bit => Sys2Proof.Machine.execSetb bit s
  | .halt => Sys2Proof.Machine.execHalt s

end Sys2Proof.Machine
end

