-- ==== Sys2Proof/Machine/Step.lean ====
section
/-! DEFINITION. One step of the core (spec/40_sequencer.md R120), taken only in `RUNNING` (spec/10_state.md R48). -/

namespace Sys2Proof.Machine

/-- `Step()`: fetch one instruction and execute it, or raise the error of the fetch (R120). No step is taken once the run has
ended (spec/10_state.md R48; log 6). -/
def step (s : State) : Host.Outcome State Fault Refusal :=
  match s.status with
  | .halted => .fault .runHalted
  | .faulted e => .fault (.runFaulted e)
  | .running =>
    match fetchInstr s with
    | .error (e, t) => .next (raise e t)
    | .ok (i, t) => exec i t

/-- `s` with the instruction whose bits are `w` stored at `PC` in code space, where `step` fetches its next instruction, and
the status `RUNNING`, in which alone a step is taken. -/
def State.withFetchWord (s : State) (nbits w : Nat) : State :=
  s.placeAtPc (tableBytes nbits w)

end Sys2Proof.Machine
end

