-- ==== Sys2Proof/Safety.lean ====
section
/-! DEFINITION. What counts as a legal state and as a good end of a run, where an instruction stores, and what an arithmetic
instruction leaves, in the terms the statements use. -/

namespace Sys2Proof.Machine

/-! ### Runs and legal states -/

/-- The run has ended (spec/40_sequencer.md R128). -/
def State.ended (s : State) : Prop :=
  s.status ≠ .running

/-- The only successful end of a run (spec/10_state.md R48). -/
def State.succeeded (s : State) : Prop :=
  s.status = .halted

/-- The bounds every state of a core built as spec/00_scope.md R8 admits must keep: `CODE_SIZE <= 65535`, `PC <= CODE_SIZE`
(spec/40_sequencer.md R125), and both arrays in their canonical form. -/
structure State.Inv (s : State) : Prop where
  codeSize : s.code.length ≤ Config.maxCodeSize
  pcBound : s.pc.toNat ≤ s.code.length
  codeWf : s.code.wf
  dataWf : s.data.wf

/-- What no instruction can write keeps its reset value: `DPTR` (spec/10_state.md R25), `F0`, `RS1` and `RS0` (R31), every bit of
`B` but bit 0 (R23) and every pin of port 3 (R40; spec/45_setb_bit_router.md R229). -/
structure State.Untouched (s : State) : Prop where
  dptr : s.dptr = 0x0000#16
  f0 : s.flags.f0 = false
  rs1 : s.flags.rs1 = false
  rs0 : s.flags.rs0 = false
  b : s.b = 0x00#8 ∨ s.b = 0x01#8
  port3 : ∀ k : Fin 8, s.pin 3 k = false

/-- The bytes of code space from `PC` to its end: what the fetches of an instruction can reach. -/
def State.codeFromPc (s : State) : List Byte :=
  (List.range (s.code.length - s.pc.toNat)).map (fun k => s.code.get (s.pc.toNat + k))

/-! ### Memory -/

/-- `m'` is `m` with the one cell at `addr` holding `v`. -/
def Memory.Updated (m m' : Memory) (addr : Nat) (v : Byte) : Prop :=
  m'.length = m.length ∧ ∀ x, m'.get x = if x = addr then v else m.get x

/-- The data-space address an instruction stores to, where it stores to data space. -/
def dataStore : Instr → Option Nat
  | .movR0A => some (regAddress 0)
  | .movR1A => some (regAddress 1)
  | .movR2A => some (regAddress 2)
  | .movR3A => some (regAddress 3)
  | .movR4A => some (regAddress 4)
  | .movR5A => some (regAddress 5)
  | .movR6A => some (regAddress 6)
  | .movRnImm n _ => some (regAddress n)
  | .decRn n => some (regAddress n)
  | .setb bit =>
    match routeBit (zext16 bit) with
    | .ok (.dataBit i _) => some i
    | _ => none
  | .clrA | .cplA | .movAImm _ | .movARn _ | .movDirectImm _ _ | .addAImm _ | .addARn _ | .subAImm _ | .subARn _ | .decA
  | .orlAImm _ | .orlARn _ | .anlAImm _ | .anlARn _ | .xrlAImm _ | .xrlARn _ | .halt => none

/-- The code-space address an instruction stores to: `MOV direct,#imm` alone stores there (spec/20_memory.md R63, R70). -/
def codeStore : Instr → Option Nat
  | .movDirectImm direct _ => some (directAddress direct)
  | .clrA | .cplA | .movAImm _ | .movARn _ | .movR0A | .movR1A | .movR2A | .movR3A | .movR4A | .movR5A | .movR6A
  | .movRnImm _ _ | .addAImm _ | .addARn _ | .subAImm _ | .subARn _ | .decA | .decRn _
  | .orlAImm _ | .orlARn _ | .anlAImm _ | .anlARn _ | .xrlAImm _ | .xrlARn _ | .setb _ | .halt => none

/-! ### Classes of instructions -/

end Sys2Proof.Machine

namespace Sys2Proof

/-- The forms that write `A` and `P` and no other flag: `CLR A`, `CPL A` (spec/41_accumulator_unary.md), the two moves to `A`
(spec/42_mov.md R152, R153) and the six logic forms (spec/44_logic.md R200). -/
def Instr.movesToAcc : Instr → Bool
  | .clrA | .cplA | .movAImm _ | .movARn _ => true
  | .orlAImm _ | .orlARn _ | .anlAImm _ | .anlARn _ | .xrlAImm _ | .xrlARn _ => true
  | .movR0A | .movR1A | .movR2A | .movR3A | .movR4A | .movR5A | .movR6A | .movDirectImm _ _ | .movRnImm _ _
  | .addAImm _ | .addARn _ | .subAImm _ | .subARn _ | .decA | .decRn _ | .setb _ | .halt => false

/-- The five arithmetic forms whose destination is `A` (spec/43_arithmetic.md R175 to R179). -/
def Instr.arithOnAcc : Instr → Bool
  | .addAImm _ | .addARn _ | .subAImm _ | .subARn _ | .decA => true
  | .clrA | .cplA | .movAImm _ | .movARn _ | .orlAImm _ | .orlARn _ | .anlAImm _ | .anlARn _ | .xrlAImm _ | .xrlARn _
  | .movR0A | .movR1A | .movR2A | .movR3A | .movR4A | .movR5A | .movR6A | .movDirectImm _ _ | .movRnImm _ _
  | .decRn _ | .setb _ | .halt => false

/-- The six arithmetic forms, the writers of `CY`, `AC` and `OV` (spec/10_state.md R27). -/
def Instr.arithmetic : Instr → Bool
  | .addAImm _ | .addARn _ | .subAImm _ | .subARn _ | .decA | .decRn _ => true
  | .clrA | .cplA | .movAImm _ | .movARn _ | .orlAImm _ | .orlARn _ | .anlAImm _ | .anlARn _ | .xrlAImm _ | .xrlARn _
  | .movR0A | .movR1A | .movR2A | .movR3A | .movR4A | .movR5A | .movR6A | .movDirectImm _ _ | .movRnImm _ _
  | .setb _ | .halt => false

end Sys2Proof

namespace Sys2Proof.Machine

/-- The seven encodable `MOV Rn,A` forms with their register (spec/30_encoding.md R100). -/
def movRnAForms : List (Instr × Reg) :=
  [(.movR0A, 0), (.movR1A, 1), (.movR2A, 2), (.movR3A, 3), (.movR4A, 4), (.movR5A, 5), (.movR6A, 6)]

/-- The 93 one-byte bit addresses that no rule of the router claims (spec/45_setb_bit_router.md R231, R232). -/
def unclaimedBit (bit : Byte) : Bool :=
  [(0x88, 0x8F), (0x98, 0x9F), (0xA8, 0xAF), (0xB8, 0xCF), (0xD1, 0xDF), (0xE1, 0xEF), (0xF1, 0xFF)].any
    (fun range => range.1 ≤ bit.toNat && bit.toNat ≤ range.2)

/-! ### What arithmetic means (spec/43_arithmetic.md R181, R182), in exact numbers -/

/-- A signed sum or difference that eight bits cannot hold. -/
def signedOverflow (exact : Int) : Bool :=
  decide (exact < -128 ∨ 127 < exact)

/-- The flags after adding `x` and `y`. -/
def sumFlags (f : Flags) (x y : Byte) : Flags :=
  { f with
    cy := decide (255 < x.toNat + y.toNat)
    ac := decide (15 < x.toNat % 16 + y.toNat % 16)
    ov := signedOverflow (x.toInt + y.toInt)
    p := parity (x + y) }

/-- The flags after subtracting `y` from `x`. -/
def differenceFlags (f : Flags) (x y : Byte) : Flags :=
  { f with
    cy := decide (x.toNat < y.toNat)
    ac := decide (x.toNat % 16 < y.toNat % 16)
    ov := signedOverflow (x.toInt - y.toInt)
    p := parity (x - y) }

end Sys2Proof.Machine
end

