-- ==== Sys2Proof/Certificates/Slice0/Obligations.lean ====
section
/-! DEFINITION. The statements for the provers. Each docstring says which rule or section of spec/ it formalises. -/

open Sys2Proof Sys2Proof.Machine

/-! ### Reset, power-on, loading -/

/-- spec/10_state.md R52, R54 (with the spec's decisions D11, D12, D13; logs 1, 2, 3, 4): `State.reset` is the power-on
column of R54 with the default sizes. -/
def Obligations.ResetStateIsThePowerOnTable : Prop :=
  State.reset.pc = 0x0000#16 ∧ State.reset.a = 0x00#8 ∧ State.reset.b = 0x00#8 ∧ State.reset.dptr = 0x0000#16 ∧
  State.reset.psw = 0x00#8 ∧
  State.reset.flags = { cy := false, ac := false, f0 := false, rs1 := false, rs0 := false, ov := false, p := false } ∧
  State.reset.status = .running ∧
  State.reset.code.length = 4096 ∧ State.reset.data.length = 128 ∧
  (∀ addr, addr < 4096 → readCode State.reset addr = .ok 0x00#8) ∧
  (∀ addr, addr < 128 → readData State.reset addr = .ok 0x00#8) ∧
  (∀ p k, State.reset.pin p k = false)

/-- spec/10_state.md R52 and spec/70_reset_and_hazards.md R290, R292 (the spec's decisions D13, D14; log 15): CPU reset,
in any status, zeroes ProcessorState and sets `RUNNING`, and leaves `code`, `data` and the pins. -/
def Obligations.CpuResetZeroesProcessorStateOnly : Prop :=
  ∀ s : State,
    s.cpuReset.pc = 0x0000#16 ∧ s.cpuReset.a = 0x00#8 ∧ s.cpuReset.b = 0x00#8 ∧ s.cpuReset.dptr = 0x0000#16 ∧
    s.cpuReset.psw = 0x00#8 ∧ s.cpuReset.status = .running ∧
    s.cpuReset.code = s.code ∧ s.cpuReset.data = s.data ∧ (∀ p k, s.cpuReset.pin p k = s.pin p k)

/-- spec/10_state.md R45 (when the loader acts is decision D17; log 17): the program's bytes stand from address 0 and
nothing else changes; a program longer than code space is refused at the write at `CODE_SIZE`. -/
def Obligations.LoadPlacesTheProgramFromAddressZero : Prop :=
  ∀ (s : State) (program : List Byte),
    (program.length ≤ s.code.length →
      ∃ m : Memory, loadProgram s program = .ok { s with code := m } ∧ m.length = s.code.length ∧
        (∀ (i : Nat) (h : i < program.length), m.get i = program[i]) ∧
        (∀ i, program.length ≤ i → m.get i = s.code.get i)) ∧
    (s.code.length < program.length →
      loadProgram s program = .error (.addressError .code s.code.length s.code.length))

/-! ### Parity and the packed view -/

/-- spec/00_scope.md R16: `parity(v)` is true if and only if the number of set bits is even, and 0x00, 0xFF are even,
0x01 odd. -/
def Obligations.ParityIsTrueForAnEvenNumberOfOnes : Prop :=
  (∀ v : Byte, parity v = true ↔ Even ((Finset.univ.filter (fun i : Fin 8 => v.getLsbD i.val = true)).card)) ∧
  parity 0x00#8 = true ∧ parity 0xFF#8 = true ∧ parity 0x01#8 = false

/-- spec/10_state.md R34 (the last clause is derived there from R31): the packed view, bit by bit, with bit 1 always 0;
`PSW` of a state is that of its flags. -/
def Obligations.PackedFlagsBitByBit : Prop :=
  (∀ f : Flags, f.packed.toNat =
    128 * f.cy.toNat + 64 * f.ac.toNat + 32 * f.f0.toNat + 16 * f.rs1.toNat + 8 * f.rs0.toNat + 4 * f.ov.toNat
      + f.p.toNat) ∧
  (∀ s : State, s.psw = s.flags.packed) ∧
  (∀ s : State, s.Untouched → s.psw &&& 0x3A#8 = 0x00#8)

/-! ### Memory -/

/-- spec/20_memory.md R61 to R65: each of the four access functions is refused exactly when the address is not below the
length, with the space, the address and the length; a read then changes nothing and a write replaces the one byte. -/
def Obligations.EveryAccessIsBoundsChecked : Prop :=
  ∀ (s : State) (addr : Nat) (v : Byte),
    (s.code.length ≤ addr → readCode s addr = .error (.addressError .code addr s.code.length) ∧
      writeCode s addr v = .error (.addressError .code addr s.code.length)) ∧
    (s.data.length ≤ addr → readData s addr = .error (.addressError .data addr s.data.length) ∧
      writeData s addr v = .error (.addressError .data addr s.data.length)) ∧
    (addr < s.code.length → readCode s addr = .ok (s.code.get addr) ∧
      ∃ m, writeCode s addr v = .ok { s with code := m } ∧ s.code.Updated m addr v) ∧
    (addr < s.data.length → readData s addr = .ok (s.data.get addr) ∧
      ∃ m, writeData s addr v = .ok { s with data := m } ∧ s.data.Updated m addr v)

/-- spec/20_memory.md R60, R69, R76: a read gives the latest byte written to that cell, every other cell of the space
keeps its byte, and the other space is not touched ("two independent byte arrays"). -/
def Obligations.ReadGivesTheLatestWriteAndSpacesAreIndependent : Prop :=
  ∀ (s t : State) (addr : Nat) (v : Byte),
    (writeData s addr v = .ok t →
      readData t addr = .ok v ∧ (∀ other, other ≠ addr → readData t other = readData s other) ∧
      (∀ other, readCode t other = readCode s other)) ∧
    (writeCode s addr v = .ok t →
      readCode t addr = .ok v ∧ (∀ other, other ≠ addr → readCode t other = readCode s other) ∧
      (∀ other, readData t other = readData s other))

/-! ### Encoding -/

/-- spec/30_encoding.md R98, R99 (the byte values are the spec's decision D1; log 5): words written out from the opcode
table. -/
def Obligations.WrittenOutWordsDecode : Prop :=
  decode [0xE4#8] = .ok (.clrA, []) ∧ decode [0x74#8, 0xFF#8] = .ok (.movAImm 0xFF#8, []) ∧
  decode [0xEF#8] = .ok (.movARn 7, []) ∧ decode [0xFE#8] = .ok (.movR6A, []) ∧
  decode [0x75#8, 0x10#8, 0xAB#8] = .ok (.movDirectImm 0x10#8 0xAB#8, []) ∧
  decode [0x7B#8, 0x42#8] = .ok (.movRnImm 3 0x42#8, []) ∧ decode [0x29#8] = .ok (.addARn 1, []) ∧
  decode [0x94#8, 0x01#8] = .ok (.subAImm 0x01#8, []) ∧ decode [0x1D#8] = .ok (.decRn 5, []) ∧
  decode [0x5E#8] = .ok (.anlARn 6, []) ∧ decode [0xD2#8, 0xB2#8] = .ok (.setb 0xB2#8, []) ∧
  decode [0xFF#8] = .ok (.halt, []) ∧ decode [0x00#8] = .error (.unsupportedOpcode 0x00#8) ∧
  decode [0x74#8] = .error .endOfBytes

/-- spec/30_encoding.md R97, R99, R103 (decision D1; log 5): every byte matches at most one row, 82 bytes match one, the
halt sentinel matches none, and the form a byte selects has the length the opcode map gives. -/
def Obligations.OpcodeRowsAreDisjointAndAgreeWithTheMap : Prop :=
  (∀ op : Byte, (opcodeTable.filter (fun r => r.claims op)).length ≤ 1) ∧
  (List.range 256).countP (fun k => (decodeOpcode (BitVec.ofNat 8 k)).isSome) = 82 ∧
  decodeOpcode Config.haltByte = none ∧
  (∀ op : Byte, op ≠ Config.haltByte → (decodeOpcode op).map (fun form => form.operandCount + 1) = opcodeLength op)

/-- spec/30_encoding.md R91 to R96, R98 (decision D1; log 5): decoding the bytes of any instruction gives it back, with
every operand at every value, and leaves what follows. -/
def Obligations.DecodeOfEncodeIsTheInstruction : Prop :=
  ∀ (i : Instr) (rest : List Byte), decode (encode i ++ rest) = .ok (i, rest)

/-- spec/30_encoding.md R97, R99, R103, R105 (decision D1; log 5): exactly the byte strings that pass the check written
from the opcode map are instructions, and then the instruction's encoding is that byte string. -/
def Obligations.WellFormedBytesAreExactlyTheEncodings : Prop :=
  ∀ bytes : List Byte, bytesWellFormed bytes = true ↔ ∃ i, decode bytes = .ok (i, []) ∧ encode i = bytes

/-! ### The sequencer -/

/-- spec/40_sequencer.md R120, R124, R127 (a step is one instruction: decision D18; log 18): where the bytes at `PC`
decode to an instruction, `step` is `exec` of it in the state with `PC` past the bytes it consumes (none for the halt
sentinel). -/
def Obligations.StepRunsTheDecodedInstruction : Prop :=
  ∀ (s : State) (bytes rest : List Byte) (i : Instr),
    s.status = .running → s.code.length ≤ Config.maxCodeSize →
    (∀ (k : Nat) (h : k < bytes.length), readCode s (s.pc.toNat + k) = .ok bytes[k]) →
    decode bytes = .ok (i, rest) →
    step s = exec i (s.setPc (s.pc + BitVec.ofNat 16 i.consumed))

/-- spec/40_sequencer.md R120, R124 to R127 and spec/30_encoding.md R103 (D18; log 18): a whole step is the decoding of
the code bytes from `PC` on, then the instruction, or the error of the fetch or of the decoder with `PC` past the bytes
fetched. -/
def Obligations.StepIsDecodeThenExecute : Prop :=
  ∀ s : State, s.Inv → s.status = .running →
    (∀ i rest, decode s.codeFromPc = .ok (i, rest) → step s = exec i (s.setPc (s.pc + BitVec.ofNat 16 i.consumed))) ∧
    (∀ op, decode s.codeFromPc = .error (.unsupportedOpcode op) →
      step s = .next (raise (.unsupportedOpcode op) (s.setPc (s.pc + 1#16)))) ∧
    (decode s.codeFromPc = .error .endOfBytes →
      step s = .next (raise (.addressError .code s.code.length s.code.length)
        (s.setPc (BitVec.ofNat 16 s.code.length))))

/-- spec/40_sequencer.md R124 (how a refused fetch ends is decision D13; log 6): `Fetch()` reads the byte at `PC`, then
adds 1; refused, it leaves `PC`; and no instruction's own effect changes `PC`. -/
def Obligations.FetchReadsThenIncrements : Prop :=
  (∀ s : State, s.pc.toNat < s.code.length →
    fetch s = .ok (s.code.get s.pc.toNat, { s with pc := BitVec.ofNat 16 (s.pc.toNat + 1) })) ∧
  (∀ s : State, s.code.length ≤ s.pc.toNat → fetch s = .error (.addressError .code s.pc.toNat s.code.length)) ∧
  (∀ (i : Instr) (s t : State), exec i s = .next t → t.pc = s.pc)

/-- spec/40_sequencer.md R121 (the run status is decision D13; log 3): 0xFF at `PC` at an instruction boundary ends the
run as `HALTED` with nothing else changed, `PC` included; where `PC` is out of bounds the halt test's read raises; and
`HALTED` is absorbing. -/
def Obligations.HaltSentinelStopsBeforeExecuting : Prop :=
  (∀ s : State, s.status = .running → readCode s s.pc.toNat = .ok 0xFF#8 →
    step s = .next { s with status := .halted }) ∧
  (∀ s : State, s.status = .running → s.code.length ≤ s.pc.toNat →
    step s = .next (raise (.addressError .code s.pc.toNat s.code.length) s)) ∧
  (∀ s : State, exec .halt s = .next { s with status := .halted }) ∧
  (∀ s : State, s.status = .halted → ∀ t, step s ≠ .next t)

/-- spec/30_encoding.md R103 (which bytes they are is decision D1; log 5): an opcode byte with no length in the opcode
map raises `UnsupportedOpcode` with `PC` past that byte and no operand fetched. -/
def Obligations.UnsupportedOpcodeRaises : Prop :=
  ∀ (s : State) (op : Byte), s.status = .running → readCode s s.pc.toNat = .ok op → opcodeLength op = none →
    step s = .next { s with pc := s.pc + 1#16, status := .faulted (.unsupportedOpcode op) }

/-- spec/10_state.md R48, spec/60_exceptions.md R261 (the status is the spec's decision D13; log 6): no step is taken
once the run has ended, and a step is taken in every state that is running. -/
def Obligations.StepIsTakenExactlyInRunning : Prop :=
  ∀ s : State, (∃ t, step s = .next t) ↔ s.status = .running

/-- spec/40_sequencer.md R124, R128 (derived there, with decision D10; log 4): a step that leaves the run going has
advanced `PC` by one to three bytes, and no further than `CODE_SIZE`. -/
def Obligations.RunningStepAdvancesThePc : Prop :=
  ∀ s t : State, s.Inv → step s = .next t → t.status = .running →
    s.pc.toNat < t.pc.toNat ∧ t.pc.toNat ≤ s.pc.toNat + 3 ∧ t.pc.toNat ≤ s.code.length

/-- spec/40_sequencer.md R128 (the bound is derived there, with decisions D10, D13; logs 3, 4): from any legal running
state the run ends within `CODE_SIZE + 1` steps, as `HALTED` or as `FAULTED(e)`. -/
def Obligations.EveryRunEndsWithinCodeSizePlusOneSteps : Prop :=
  ∀ s : State, s.Inv → s.status = .running →
    ∃ k t, k ≤ s.code.length + 1 ∧ Sys2Proof.core.run k s = .next t ∧
      (t.status = .halted ∨ ∃ e, t.status = .faulted e)

/-! ### Accumulator unary and data transfer -/

/-- spec/41_accumulator_unary.md R141. -/
def Obligations.ClearAccumulatorResult : Prop :=
  ∀ s : State, exec .clrA s = .next { s with a := 0x00#8, flags := { s.flags with p := true } }

/-- spec/41_accumulator_unary.md R142 (that the parity is the new value's is decision D26, which R142 shows cannot be
told apart from the old value's; log 20). -/
def Obligations.ComplementAccumulatorResult : Prop :=
  ∀ s : State, exec .cplA s =
    .next { s with a := BitVec.ofNat 8 (255 - s.a.toNat), flags := { s.flags with p := parity s.a } }

/-- spec/42_mov.md R152 (raw and masked immediate are one value: decision D23; log 20). -/
def Obligations.MoveImmediateToAccumulatorResult : Prop :=
  ∀ (imm : Byte) (s : State),
    exec (.movAImm imm) s = .next { s with a := imm, flags := { s.flags with p := parity imm } }

/-- spec/42_mov.md R153. -/
def Obligations.MoveRegisterToAccumulatorResult : Prop :=
  ∀ (n : Reg) (s : State),
    (n.val < s.data.length → exec (.movARn n) s =
      .next { s with a := s.data.get n.val, flags := { s.flags with p := parity (s.data.get n.val) } }) ∧
    (s.data.length ≤ n.val → exec (.movARn n) s =
      .next { s with status := .faulted (.addressError .data n.val s.data.length) })

/-- spec/42_mov.md R154: the seven encodable forms, and at decoder level every `n` in 0..7; no flag is written. -/
def Obligations.MoveAccumulatorToRegisterResult : Prop :=
  (∀ (n : Reg) (s : State),
    (n.val < s.data.length → ∃ m, movRnA n s = .next { s with data := m } ∧ s.data.Updated m n.val s.a) ∧
    (s.data.length ≤ n.val → movRnA n s =
      .next { s with status := .faulted (.addressError .data n.val s.data.length) })) ∧
  (∀ (i : Instr) (n : Reg) (s : State), (i, n) ∈ movRnAForms →
    (n.val < s.data.length → ∃ m, exec i s = .next { s with data := m } ∧ s.data.Updated m n.val s.a) ∧
    (s.data.length ≤ n.val → exec i s =
      .next { s with status := .faulted (.addressError .data n.val s.data.length) }))

/-- spec/42_mov.md R156, spec/90_conflicts.md C5 (the width of `direct` and the order of the failing write are decisions
D2 and D9; logs 7, 14): the write goes to code space, data space is left, and the parity is the immediate's. -/
def Obligations.MoveImmediateToCodeResult : Prop :=
  ∀ (direct imm : Byte) (s : State),
    (direct.toNat < s.code.length → ∃ m, exec (.movDirectImm direct imm) s =
        .next { s with code := m, flags := { s.flags with p := parity imm } } ∧
      s.code.Updated m direct.toNat imm) ∧
    (s.code.length ≤ direct.toNat → exec (.movDirectImm direct imm) s =
      .next { s with status := .faulted (.addressError .code direct.toNat s.code.length) })

/-- spec/20_memory.md R78, spec/70_reset_and_hazards.md R297 (the width of `direct` is decision D2; log 7): a byte
stored to code space is what the next halt test and fetch at that address see, with nothing in between; a planted 0xFF
halts the run there. -/
def Obligations.CodeStoreIsSeenByTheNextFetch : Prop :=
  ∀ (direct imm : Byte) (s : State), direct.toNat < s.code.length → s.status = .running →
    ∃ t, exec (.movDirectImm direct imm) s = .next t ∧ readCode t direct.toNat = .ok imm ∧
      (t.pc.toNat = direct.toNat →
        (imm = 0xFF#8 → step t = .next { t with status := .halted }) ∧
        fetch t = .ok (imm, { t with pc := t.pc + 1#16 }))

/-- spec/42_mov.md R157 (that the parity is the immediate's is decision D7, the order of the failing write D9; logs 12,
14). -/
def Obligations.MoveImmediateToRegisterResult : Prop :=
  ∀ (n : Reg) (imm : Byte) (s : State),
    (n.val < s.data.length → ∃ m, exec (.movRnImm n imm) s =
        .next { s with data := m, flags := { s.flags with p := parity imm } } ∧ s.data.Updated m n.val imm) ∧
    (s.data.length ≤ n.val → exec (.movRnImm n imm) s =
      .next { s with status := .faulted (.addressError .data n.val s.data.length) })

/-! ### Arithmetic -/

/-- spec/43_arithmetic.md R170, the ALU's addition for all operands. -/
def Obligations.AluAddOutcome : Prop :=
  ∀ x y : Byte,
    (aluAdd x y).r = BitVec.ofNat 8 ((x.toNat + y.toNat) % 256) ∧
    ((aluAdd x y).cy = true ↔ 0x100 ≤ x.toNat + y.toNat) ∧
    ((aluAdd x y).ac = true ↔ 0x10 ≤ (x &&& 0x0F#8).toNat + (y &&& 0x0F#8).toNat) ∧
    ((aluAdd x y).ov = true ↔ x.getLsbD 7 = y.getLsbD 7 ∧ (aluAdd x y).r.getLsbD 7 ≠ x.getLsbD 7)

/-- spec/43_arithmetic.md R171, the ALU's subtraction for all operands. -/
def Obligations.AluSubOutcome : Prop :=
  ∀ x y : Byte,
    ((aluSub x y).r.toNat : Int) = ((x.toNat : Int) - y.toNat) % 256 ∧
    ((aluSub x y).cy = true ↔ x.toNat < y.toNat) ∧
    ((aluSub x y).ac = true ↔ (x &&& 0x0F#8).toNat < (y &&& 0x0F#8).toNat) ∧
    ((aluSub x y).ov = true ↔ x.getLsbD 7 ≠ y.getLsbD 7 ∧ (aluSub x y).r.getLsbD 7 ≠ x.getLsbD 7)

/-- spec/43_arithmetic.md R182 (derived there): overflow is exactly a signed result outside -128..127, half carry and
half borrow are bit 4 of `a ^ b ^ r`, and without overflow the signed result is exact. -/
def Obligations.OverflowIsSignedOverflow : Prop :=
  ∀ x y : Byte,
    ((aluAdd x y).ov = true ↔ x.toInt + y.toInt < -128 ∨ 127 < x.toInt + y.toInt) ∧
    ((aluSub x y).ov = true ↔ x.toInt - y.toInt < -128 ∨ 127 < x.toInt - y.toInt) ∧
    (aluAdd x y).ac = (x ^^^ y ^^^ (aluAdd x y).r).getLsbD 4 ∧
    (aluSub x y).ac = (x ^^^ y ^^^ (aluSub x y).r).getLsbD 4 ∧
    ((aluAdd x y).ov = false → (aluAdd x y).r.toInt = x.toInt + y.toInt) ∧
    ((aluSub x y).ov = false → (aluSub x y).r.toInt = x.toInt - y.toInt)

/-- spec/43_arithmetic.md R175, R176, R181, R182 (parity of the 8-bit result is decision D6; log 11): `ADD` with its
flags in exact numbers; the old carry plays no part. -/
def Obligations.AddResult : Prop :=
  (∀ (imm : Byte) (s : State),
    exec (.addAImm imm) s = .next { s with a := s.a + imm, flags := sumFlags s.flags s.a imm }) ∧
  (∀ (n : Reg) (s : State),
    (n.val < s.data.length → exec (.addARn n) s =
      .next { s with a := s.a + s.data.get n.val, flags := sumFlags s.flags s.a (s.data.get n.val) }) ∧
    (s.data.length ≤ n.val → exec (.addARn n) s =
      .next { s with status := .faulted (.addressError .data n.val s.data.length) }))

/-- spec/43_arithmetic.md R177, R178, R181, R182 (decision D6; log 11): `SUB` with its flags in exact numbers; the old
carry is not subtracted. -/
def Obligations.SubtractResult : Prop :=
  (∀ (imm : Byte) (s : State),
    exec (.subAImm imm) s = .next { s with a := s.a - imm, flags := differenceFlags s.flags s.a imm }) ∧
  (∀ (n : Reg) (s : State),
    (n.val < s.data.length → exec (.subARn n) s =
      .next { s with a := s.a - s.data.get n.val, flags := differenceFlags s.flags s.a (s.data.get n.val) }) ∧
    (s.data.length ≤ n.val → exec (.subARn n) s =
      .next { s with status := .faulted (.addressError .data n.val s.data.length) }))

/-- spec/43_arithmetic.md R179, R180, R183 (decisions D6, D24; logs 11, 20): `DEC` of the accumulator or of a register
cell, with its four flags told by the one value that was decremented. -/
def Obligations.DecrementResult : Prop :=
  (∀ s : State, exec .decA s = .next { s with
    a := s.a - 1#8
    flags := { s.flags with
      cy := decide (s.a = 0x00#8)
      ac := decide (s.a.toNat % 16 = 0)
      ov := decide (s.a = 0x80#8)
      p := parity (s.a - 1#8) } }) ∧
  (∀ (n : Reg) (s : State),
    (n.val < s.data.length → ∃ m, exec (.decRn n) s = .next { s with
        data := m
        flags := { s.flags with
          cy := decide (s.data.get n.val = 0x00#8)
          ac := decide ((s.data.get n.val).toNat % 16 = 0)
          ov := decide (s.data.get n.val = 0x80#8)
          p := parity (s.data.get n.val - 1#8) } } ∧
      s.data.Updated m n.val (s.data.get n.val - 1#8)) ∧
    (s.data.length ≤ n.val → exec (.decRn n) s =
      .next { s with status := .faulted (.addressError .data n.val s.data.length) }))

/-! ### Logic -/

/-- spec/44_logic.md R201, R202. -/
def Obligations.OrResult : Prop :=
  (∀ (imm : Byte) (s : State), exec (.orlAImm imm) s =
    .next { s with a := s.a ||| imm, flags := { s.flags with p := parity (s.a ||| imm) } }) ∧
  (∀ (n : Reg) (s : State),
    (n.val < s.data.length → exec (.orlARn n) s = .next { s with
      a := s.a ||| s.data.get n.val, flags := { s.flags with p := parity (s.a ||| s.data.get n.val) } }) ∧
    (s.data.length ≤ n.val → exec (.orlARn n) s =
      .next { s with status := .faulted (.addressError .data n.val s.data.length) }))

/-- spec/44_logic.md R203, R204. -/
def Obligations.AndResult : Prop :=
  (∀ (imm : Byte) (s : State), exec (.anlAImm imm) s =
    .next { s with a := s.a &&& imm, flags := { s.flags with p := parity (s.a &&& imm) } }) ∧
  (∀ (n : Reg) (s : State),
    (n.val < s.data.length → exec (.anlARn n) s = .next { s with
      a := s.a &&& s.data.get n.val, flags := { s.flags with p := parity (s.a &&& s.data.get n.val) } }) ∧
    (s.data.length ≤ n.val → exec (.anlARn n) s =
      .next { s with status := .faulted (.addressError .data n.val s.data.length) }))

/-- spec/44_logic.md R205, R206; `imm = 0xFF` complements `A` exactly as `CPL A` does. -/
def Obligations.XorResult : Prop :=
  (∀ (imm : Byte) (s : State), exec (.xrlAImm imm) s =
    .next { s with a := s.a ^^^ imm, flags := { s.flags with p := parity (s.a ^^^ imm) } }) ∧
  (∀ (n : Reg) (s : State),
    (n.val < s.data.length → exec (.xrlARn n) s = .next { s with
      a := s.a ^^^ s.data.get n.val, flags := { s.flags with p := parity (s.a ^^^ s.data.get n.val) } }) ∧
    (s.data.length ≤ n.val → exec (.xrlARn n) s =
      .next { s with status := .faulted (.addressError .data n.val s.data.length) })) ∧
  (∀ s : State, exec (.xrlAImm 0xFF#8) s = exec .cplA s)

/-! ### SETB and the bit router -/

/-- spec/45_setb_bit_router.md R224: bit address `8*i + k` below 0x80 sets bit `k` of `data[i]` and nothing else; where
that byte is out of bounds the read raises and nothing is written. -/
def Obligations.SetbDataBit : Prop :=
  ∀ (bit : Byte) (s : State), bit.toNat < 0x80 →
    (bit.toNat / 8 < s.data.length → ∃ m, exec (.setb bit) s = .next { s with data := m } ∧
      s.data.Updated m (bit.toNat / 8) (s.data.get (bit.toNat / 8) ||| BitVec.ofNat 8 (2 ^ (bit.toNat % 8)))) ∧
    (s.data.length ≤ bit.toNat / 8 → exec (.setb bit) s =
      .next { s with status := .faulted (.addressError .data (bit.toNat / 8) s.data.length) })

/-- spec/45_setb_bit_router.md R226 (no parity recomputed: decision D8; log 13): `SETB 0xE0` sets bit 0 of `A` and
changes nothing else. -/
def Obligations.SetbAccumulatorBit : Prop :=
  ∀ s : State, exec (.setb 0xE0#8) s = .next { s with a := s.a ||| 0x01#8 }

/-- spec/45_setb_bit_router.md R227, R231 (that the payload of the refusal is the zero-extended router input is decision
D19; log 19): `SETB 0xF0` sets bit 0 of `B` and nothing else, 0xF1 to 0xF7 are refused, and no other instruction writes
`B`. -/
def Obligations.SetbBRegisterBit : Prop :=
  (∀ s : State, exec (.setb 0xF0#8) s = .next { s with b := s.b ||| 0x01#8 }) ∧
  (∀ (bit : Byte) (s : State), 0xF1 ≤ bit.toNat → bit.toNat ≤ 0xF7 → exec (.setb bit) s =
    .next { s with status := .faulted (.invalidBitAddress (BitVec.ofNat 16 bit.toNat)) }) ∧
  (∀ (i : Instr) (s t : State), exec i s = .next t → i ≠ .setb 0xF0#8 → t.b = s.b)

/-- spec/45_setb_bit_router.md R228, R231 (that the payload of the refusal is the zero-extended router input is decision
D19; log 19): `SETB 0xD0` sets carry and nothing else, and 0xD1 to 0xD7 are refused. -/
def Obligations.SetbCarry : Prop :=
  (∀ s : State, exec (.setb 0xD0#8) s = .next { s with flags := { s.flags with cy := true } }) ∧
  (∀ (bit : Byte) (s : State), 0xD1 ≤ bit.toNat → bit.toNat ≤ 0xD7 → exec (.setb bit) s =
    .next { s with status := .faulted (.invalidBitAddress (BitVec.ofNat 16 bit.toNat)) })

/-- spec/45_setb_bit_router.md R229, spec/90_conflicts.md C2 (flag space wins for 0xB0..0xB7: decision D4; log 9; the
payload of the refusal is the router input: decision D19; log 19). -/
def Obligations.SetbFlagRange : Prop :=
  ∀ s : State,
    exec (.setb 0xB2#8) s = .next { s with flags := { s.flags with ov := true } } ∧
    exec (.setb 0xB4#8) s = .next { s with flags := { s.flags with ac := true } } ∧
    exec (.setb 0xB5#8) s = .next { s with flags := { s.flags with p := true } } ∧
    (∀ bit : Byte, bit ∈ [0xB0#8, 0xB1#8, 0xB3#8, 0xB6#8, 0xB7#8] → exec (.setb bit) s =
      .next { s with status := .faulted (.unknownFlagBit (BitVec.ofNat 16 bit.toNat)) })

/-- spec/45_setb_bit_router.md R230 (which port a range is: decision D5; log 10): bit address `0x80 + 0x10*p + k` with
`p` in 0..2 drives pin `p`, `k` high, and every other pin and the rest of the state keep their values. -/
def Obligations.SetbPin : Prop :=
  ∀ (bit : Byte) (p : Fin 4) (k : Fin 8) (s : State), p.val < 3 → bit.toNat = 0x80 + 0x10 * p.val + k.val →
    ∃ q : Pins, exec (.setb bit) s = .next { s with pins := q } ∧
      (∀ p' k', { s with pins := q }.pin p' k' = if p' = p ∧ k' = k then true else s.pin p' k')

/-- spec/45_setb_bit_router.md R231 (the router's 16-bit domain is decision D3, the payload decision D19; logs 8, 19):
every router input that no other rule claims fails with `InvalidBitAddress` and changes nothing: 93 one-byte values, and
0x0100..0x1FFF and 0x3000..0xFFFF. -/
def Obligations.RouterRefusesEverythingElse : Prop :=
  ∀ (addr : Addr) (s : State),
    ((0x88 ≤ addr.toNat ∧ addr.toNat ≤ 0x8F) ∨ (0x98 ≤ addr.toNat ∧ addr.toNat ≤ 0x9F) ∨
      (0xA8 ≤ addr.toNat ∧ addr.toNat ≤ 0xAF) ∨ (0xB8 ≤ addr.toNat ∧ addr.toNat ≤ 0xCF) ∨
      (0xD1 ≤ addr.toNat ∧ addr.toNat ≤ 0xDF) ∨ (0xE1 ≤ addr.toNat ∧ addr.toNat ≤ 0xEF) ∨
      (0xF1 ≤ addr.toNat ∧ addr.toNat ≤ 0x1FFF) ∨ (0x3000 ≤ addr.toNat)) →
    bitRoute addr s = .next { s with status := .faulted (.invalidBitAddress addr) } ∧
    (addr.toNat < 0x100 → exec (.setb (BitVec.ofNat 8 addr.toNat)) s =
      .next { s with status := .faulted (.invalidBitAddress addr) })

/-- spec/45_setb_bit_router.md R225, spec/90_conflicts.md C1 (the one-byte operand and the router's 16-bit domain are
decision D3, the payload decision D19; logs 8, 19): the router refuses 0x2000..0x2FFF with `ReadOnlyMemory` in every
state, with no byte of code read or written, and no encodable `SETB` gets there. -/
def Obligations.RouterRefusesCodeSpaceBits : Prop :=
  (∀ (addr : Addr) (s : State), 0x2000 ≤ addr.toNat → addr.toNat ≤ 0x2FFF →
    bitRoute addr s = .next { s with status := .faulted (.readOnlyMemory addr) }) ∧
  (∀ (bit : Byte) (s t : State) (addr : Addr), s.status = .running → exec (.setb bit) s = .next t →
    t.status ≠ .faulted (.readOnlyMemory addr))

/-- spec/45_setb_bit_router.md R233: a successful `SETB` repeated leaves the same state, never clears a bit, and never
touches `PC`, `DPTR`, `F0`, `RS1`, `RS0` or code space; and the target an address selects does not depend on the state,
since the router's selection takes no state. -/
def Obligations.SetbIsIdempotentAndClearsNothing : Prop :=
  ∀ (bit : Byte) (s t : State), s.status = .running → exec (.setb bit) s = .next t → t.status = .running →
    exec (.setb bit) t = .next t ∧
    (s.a &&& t.a = s.a) ∧ (s.b &&& t.b = s.b) ∧ (∀ x, s.data.get x &&& t.data.get x = s.data.get x) ∧
    (s.flags.packed &&& t.flags.packed = s.flags.packed) ∧ (∀ p k, s.pin p k = true → t.pin p k = true) ∧
    t.pc = s.pc ∧ t.dptr = s.dptr ∧ t.flags.f0 = s.flags.f0 ∧ t.flags.rs1 = s.flags.rs1 ∧ t.flags.rs0 = s.flags.rs0 ∧
    t.code = s.code

/-! ### Frames -/

/-- The frame of the ten forms that move a byte or a logic result to `A` (`CLR A`, `CPL A`, `MOV A,#imm`, `MOV A,Rn`,
`ORL`, `ANL`, `XRL`): nothing but `A`, `P` and, where the register read raises, the status may change, `PC` kept too,
since the fetches that move it come before `exec` (spec/44_logic.md R200, spec/42_mov.md R152, R153,
spec/41_accumulator_unary.md R141, R142, spec/40_sequencer.md R124). -/
def Obligations.AccumulatorMoveAndLogicFrame : Prop :=
  ∀ (i : Instr) (s t : State), i.movesToAcc = true → exec i s = .next t →
    t.pc = s.pc ∧ t.b = s.b ∧ t.dptr = s.dptr ∧
    t.flags.cy = s.flags.cy ∧ t.flags.ac = s.flags.ac ∧ t.flags.ov = s.flags.ov ∧
    t.flags.f0 = s.flags.f0 ∧ t.flags.rs1 = s.flags.rs1 ∧ t.flags.rs0 = s.flags.rs0 ∧
    (∀ addr, readData t addr = readData s addr) ∧ (∀ addr, readCode t addr = readCode s addr) ∧
    (∀ p k, t.pin p k = s.pin p k) ∧
    (t.status = s.status ∨ (∃ e, t.status = .faulted e) ∧ t.a = s.a ∧ t.flags = s.flags)

/-- The frame of the five arithmetic forms on `A`: nothing but `A`, the four arithmetic flags and, where the register
read raises, the status may change, `PC` kept too (spec/43_arithmetic.md R174 to R179, spec/40_sequencer.md R124). -/
def Obligations.AccumulatorArithmeticFrame : Prop :=
  ∀ (i : Instr) (s t : State), i.arithOnAcc = true → exec i s = .next t →
    t.pc = s.pc ∧ t.b = s.b ∧ t.dptr = s.dptr ∧
    t.flags.f0 = s.flags.f0 ∧ t.flags.rs1 = s.flags.rs1 ∧ t.flags.rs0 = s.flags.rs0 ∧
    (∀ addr, readData t addr = readData s addr) ∧ (∀ addr, readCode t addr = readCode s addr) ∧
    (∀ p k, t.pin p k = s.pin p k) ∧
    (t.status = s.status ∨ (∃ e, t.status = .faulted e) ∧ t.a = s.a ∧ t.flags = s.flags)

/-- The frame of the forms that store to a register cell (`MOV R0,A` to `MOV R6,A`, `MOV Rn,#imm`, `DEC Rn`): outside
the cell `regAddress n` all of data space, and all of code space, reads as before, and `PC`, `A`, `B`, `DPTR`, the pins
and `F0`, `RS1`, `RS0` keep their values; `MOV Rn,A` writes no flag, `MOV Rn,#imm` only `P` (spec/42_mov.md R154, R157,
spec/43_arithmetic.md R180, spec/40_sequencer.md R124; a failed write skips the flags: decision D9; log 14). -/
def Obligations.RegisterStoreFrame : Prop :=
  ∀ (i : Instr) (n : Reg) (s t : State),
    ((i, n) ∈ movRnAForms ∨ (∃ imm, i = .movRnImm n imm) ∨ i = .decRn n) → exec i s = .next t →
    t.pc = s.pc ∧ t.a = s.a ∧ t.b = s.b ∧ t.dptr = s.dptr ∧
    t.flags.f0 = s.flags.f0 ∧ t.flags.rs1 = s.flags.rs1 ∧ t.flags.rs0 = s.flags.rs0 ∧
    (i ≠ .decRn n → t.flags.cy = s.flags.cy ∧ t.flags.ac = s.flags.ac ∧ t.flags.ov = s.flags.ov) ∧
    ((i, n) ∈ movRnAForms → t.flags = s.flags) ∧
    (∀ addr, addr ≠ regAddress n → readData t addr = readData s addr) ∧
    (∀ addr, readCode t addr = readCode s addr) ∧ (∀ p k, t.pin p k = s.pin p k) ∧
    (t.status = s.status ∨ (∃ e, t.status = .faulted e) ∧ t.flags = s.flags ∧ t.data = s.data)

/-- The frame of `MOV direct,#imm`: outside the code cell `directAddress direct` all of code space, and all of data
space, reads as before, and nothing else but `P` and, where the write raises, the status may change, `PC` kept too
(spec/42_mov.md R156, spec/40_sequencer.md R124; the width of `direct` and the order of the failing write are decisions
D2 and D9; logs 7, 14). -/
def Obligations.CodeStoreFrame : Prop :=
  ∀ (direct imm : Byte) (s t : State), exec (.movDirectImm direct imm) s = .next t →
    t.pc = s.pc ∧ t.a = s.a ∧ t.b = s.b ∧ t.dptr = s.dptr ∧
    t.flags.cy = s.flags.cy ∧ t.flags.ac = s.flags.ac ∧ t.flags.ov = s.flags.ov ∧
    t.flags.f0 = s.flags.f0 ∧ t.flags.rs1 = s.flags.rs1 ∧ t.flags.rs0 = s.flags.rs0 ∧
    (∀ addr, addr ≠ directAddress direct → readCode t addr = readCode s addr) ∧
    (∀ addr, readData t addr = readData s addr) ∧ (∀ p k, t.pin p k = s.pin p k) ∧
    (t.status = s.status ∨ (∃ e, t.status = .faulted e) ∧ t.flags = s.flags ∧ t.code = s.code)

/-- The frame of `SETB bit` by the router's selection, and of the halt sentinel: but for the status, whatever is not the
selected target keeps its value, `PC` and all of memory outside the selected data byte included, and the status stays or
becomes `FAULTED(e)`; the sentinel keeps all but the status (spec/45_setb_bit_router.md R220, R233; spec/40_sequencer.md
R121, R124; decisions D4, D5, D8; logs 9, 10, 13). -/
def Obligations.SetbAndHaltFrame : Prop :=
  (∀ (bit : Byte) (s t : State), exec (.setb bit) s = .next t →
    t.pc = s.pc ∧ t.dptr = s.dptr ∧ t.flags.f0 = s.flags.f0 ∧ t.flags.rs1 = s.flags.rs1 ∧ t.flags.rs0 = s.flags.rs0 ∧
    (bit ≠ 0xE0#8 → t.a = s.a) ∧ (bit ≠ 0xF0#8 → t.b = s.b) ∧
    (bit ≠ 0xD0#8 → t.flags.cy = s.flags.cy) ∧ (bit ≠ 0xB2#8 → t.flags.ov = s.flags.ov) ∧
    (bit ≠ 0xB4#8 → t.flags.ac = s.flags.ac) ∧ (bit ≠ 0xB5#8 → t.flags.p = s.flags.p) ∧
    (∀ p k, routeBit (zext16 bit) ≠ .ok (.pin p k) → t.pin p k = s.pin p k) ∧
    (∀ addr, (∀ k, routeBit (zext16 bit) ≠ .ok (.dataBit addr k)) → readData t addr = readData s addr) ∧
    (∀ addr, readCode t addr = readCode s addr) ∧ (t.status = s.status ∨ ∃ e, t.status = .faulted e)) ∧
  (∀ s t : State, exec .halt s = .next t →
    t.pc = s.pc ∧ t.a = s.a ∧ t.b = s.b ∧ t.dptr = s.dptr ∧ t.flags = s.flags ∧ (∀ p k, t.pin p k = s.pin p k) ∧
    (∀ addr, readData t addr = readData s addr) ∧ (∀ addr, readCode t addr = readCode s addr))

/-! ### Whole-machine rules -/

/-- spec/40_sequencer.md R127, spec/10_state.md R21, R25, R31, R36 (an error is a next state: decision D13; log 6):
whatever the instruction and the state, `exec` answers a next state; `PC`, `DPTR`, `F0`, `RS1`, `RS0` and the two sizes
are in it as before. -/
def Obligations.EveryInstructionAnswersANextState : Prop :=
  ∀ (i : Instr) (s : State), ∃ t, exec i s = .next t ∧
    t.pc = s.pc ∧ t.dptr = s.dptr ∧ t.flags.f0 = s.flags.f0 ∧ t.flags.rs1 = s.flags.rs1 ∧ t.flags.rs0 = s.flags.rs0 ∧
    t.code.length = s.code.length ∧ t.data.length = s.data.length

/-- spec/20_memory.md R63, R65, R70, R72 (R72 is derived there, the bound 0xFF is decision D2; log 7): a cell of data or
code space that an instruction does not store to keeps its byte; no instruction stores to data cells 16 and above or to
code cells above 0xFF. -/
def Obligations.OnlyTheStoredCellChanges : Prop :=
  (∀ (i : Instr) (s t : State), exec i s = .next t →
    (∀ addr, dataStore i ≠ some addr → readData t addr = readData s addr) ∧
    (∀ addr, codeStore i ≠ some addr → readCode t addr = readCode s addr)) ∧
  (∀ (i : Instr) (addr : Nat), dataStore i = some addr → addr < 16) ∧
  (∀ (i : Instr) (addr : Nat), codeStore i = some addr → addr < 256)

/-- spec/10_state.md R22, R23, R27, R28, R29, R30 (that `SETB 0xE0` does not write `P` is decision D8; log 13): the only
writers of `A`, `B`, `CY`, `AC`, `OV` and `P`. -/
def Obligations.OnlyTheNamedInstructionsWriteEachRegisterAndFlag : Prop :=
  ∀ (i : Instr) (s t : State), exec i s = .next t →
    (t.a ≠ s.a → i.movesToAcc = true ∨ i.arithOnAcc = true ∨ i = .setb 0xE0#8) ∧
    (t.b ≠ s.b → i = .setb 0xF0#8) ∧
    (t.flags.cy ≠ s.flags.cy → i.arithmetic = true ∨ i = .setb 0xD0#8) ∧
    (t.flags.ac ≠ s.flags.ac → i.arithmetic = true ∨ i = .setb 0xB4#8) ∧
    (t.flags.ov ≠ s.flags.ov → i.arithmetic = true ∨ i = .setb 0xB2#8) ∧
    (t.flags.p ≠ s.flags.p → i.movesToAcc = true ∨ i.arithmetic = true ∨ (∃ direct imm, i = .movDirectImm direct imm) ∨
      (∃ n imm, i = .movRnImm n imm) ∨ i = .setb 0xB5#8)

/-- spec/10_state.md R40, spec/45_setb_bit_router.md R230 (derived there, with decisions D4, D5, D17; logs 9, 10, 17): a
step never lowers a pin, and raises one only by `SETB` of its own bit address, never one of port 3. -/
def Obligations.PinsOnlyRise : Prop :=
  (∀ (i : Instr) (s t : State) (p : Fin 4) (k : Fin 8), exec i s = .next t → t.pin p k ≠ s.pin p k →
    t.pin p k = true ∧ p ≠ 3 ∧ i = .setb (BitVec.ofNat 8 (0x80 + 0x10 * p.val + k.val))) ∧
  (∀ (s t : State) (p : Fin 4) (k : Fin 8), step s = .next t → s.pin p k = true → t.pin p k = true)

/-- spec/10_state.md R23, R25, R26, R40, spec/45_setb_bit_router.md R233 (no instruction reads a flag, `B`, `DPTR` or a
pin; derived there): two states that agree on `PC`, `A`, code, data and status step alike on all of these, whatever
their flags, `B`, `DPTR` and pins. In particular the bank-select flags never choose a register. -/
def Obligations.FlagsAndPinsNeverSteerExecution : Prop :=
  ∀ s s' : State, s.pc = s'.pc → s.a = s'.a → s.code = s'.code → s.data = s'.data → s.status = s'.status →
    (∃ t t', step s = .next t ∧ step s' = .next t' ∧
      t.pc = t'.pc ∧ t.a = t'.a ∧ t.code = t'.code ∧ t.data = t'.data ∧ t.status = t'.status) ∨
    (∃ f, step s = .fault f ∧ step s' = .fault f)

/-- spec/60_exceptions.md R260 (derived there): a step that ends in `FAULTED(e)` has changed only `PC` and the status.
-/
def Obligations.FaultingStepChangesOnlyPcAndStatus : Prop :=
  ∀ (s t : State) (e : ErrorValue), step s = .next t → t.status = .faulted e →
    t = { s with pc := t.pc, status := .faulted e }

/-- spec/60_exceptions.md R252 (derived there; decisions D1, D3, D4, D9, D10, D19; logs 4, 5, 8, 9, 14, 19): which
errors a step can raise, with where and at which `PC`. -/
def Obligations.StepErrorsAreThoseOfTheTable : Prop :=
  ∀ (s t : State) (e : ErrorValue), s.Inv → step s = .next t → t.status = .faulted e →
    (e = .addressError .code t.pc.toNat s.code.length ∧ t.pc.toNat = s.code.length) ∨
    (∃ op, e = .unsupportedOpcode op ∧ readCode s s.pc.toNat = .ok op ∧ opcodeLength op = none ∧
      t.pc.toNat = s.pc.toNat + 1) ∨
    (∃ direct, e = .addressError .code direct s.code.length ∧ s.code.length ≤ direct ∧ direct < 256 ∧
      readCode s s.pc.toNat = .ok 0x75#8 ∧ t.pc.toNat = s.pc.toNat + 3) ∨
    (∃ addr, e = .addressError .data addr s.data.length ∧ s.data.length ≤ addr ∧ addr < 16 ∧
      t.pc.toNat ≤ s.pc.toNat + 2) ∨
    (∃ bit : Byte, readCode s s.pc.toNat = .ok 0xD2#8 ∧ readCode s (s.pc.toNat + 1) = .ok bit ∧
      t.pc.toNat = s.pc.toNat + 2 ∧
      ((e = .unknownFlagBit (zext16 bit) ∧ bit ∈ [0xB0#8, 0xB1#8, 0xB3#8, 0xB6#8, 0xB7#8]) ∨
        (e = .invalidBitAddress (zext16 bit) ∧ unclaimedBit bit = true)))

/-! ### Invariants -/

/-- spec/00_scope.md R8, spec/40_sequencer.md R125, spec/20_memory.md R75 (decisions D10, D12; logs 2, 4): the state
after reset is legal, and holds the reset value of all that no instruction writes. -/
def Obligations.ResetStateMeetsTheInvariants : Prop :=
  State.reset.Inv ∧ State.reset.Untouched

/-- spec/40_sequencer.md R125 (derived there, with decision D10; log 4), spec/10_state.md R21, spec/20_memory.md R75:
every step keeps `PC <= CODE_SIZE`, the sizes, and both arrays in their canonical form. -/
def Obligations.StepKeepsTheLegalState : Prop :=
  ∀ s t : State, s.Inv → step s = .next t →
    t.Inv ∧ t.code.length = s.code.length ∧ t.data.length = s.data.length

/-- spec/10_state.md R23, R25, R31, R40 (derived there): every step keeps `DPTR`, `F0`, `RS1`, `RS0` and port 3 at their
reset values and `B` at 0x00 or 0x01. -/
def Obligations.StepKeepsTheUntouchedState : Prop :=
  ∀ s t : State, s.Untouched → step s = .next t → t.Untouched
end

