-- ==== Sys2Proof/Laws/Decode.lean ====
section
/-! SUPPORT. What the decoder does with each row of the opcode table (spec/30_encoding.md R98), and with operand bytes. -/

namespace Sys2Proof

/-! ### Opcode bytes: the one-byte forms -/

@[simp] theorem decodeOpcode_clrA : decodeOpcode 0xE4#8 = some (.ready .clrA) := rfl
@[simp] theorem decodeOpcode_cplA : decodeOpcode 0xF4#8 = some (.ready .cplA) := rfl
@[simp] theorem decodeOpcode_decA : decodeOpcode 0x14#8 = some (.ready .decA) := rfl
@[simp] theorem decodeOpcode_movR0A : decodeOpcode 0xF8#8 = some (.ready .movR0A) := rfl
@[simp] theorem decodeOpcode_movR1A : decodeOpcode 0xF9#8 = some (.ready .movR1A) := rfl
@[simp] theorem decodeOpcode_movR2A : decodeOpcode 0xFA#8 = some (.ready .movR2A) := rfl
@[simp] theorem decodeOpcode_movR3A : decodeOpcode 0xFB#8 = some (.ready .movR3A) := rfl
@[simp] theorem decodeOpcode_movR4A : decodeOpcode 0xFC#8 = some (.ready .movR4A) := rfl
@[simp] theorem decodeOpcode_movR5A : decodeOpcode 0xFD#8 = some (.ready .movR5A) := rfl
@[simp] theorem decodeOpcode_movR6A : decodeOpcode 0xFE#8 = some (.ready .movR6A) := rfl

/-! ### Opcode bytes: the forms with operand bytes -/

@[simp] theorem decodeOpcode_movAImm : decodeOpcode 0x74#8 = some (.one .movAImm) := rfl
@[simp] theorem decodeOpcode_movDirectImm : decodeOpcode 0x75#8 = some (.two .movDirectImm) := rfl
@[simp] theorem decodeOpcode_addAImm : decodeOpcode 0x24#8 = some (.one .addAImm) := rfl
@[simp] theorem decodeOpcode_subAImm : decodeOpcode 0x94#8 = some (.one .subAImm) := rfl
@[simp] theorem decodeOpcode_orlAImm : decodeOpcode 0x44#8 = some (.one .orlAImm) := rfl
@[simp] theorem decodeOpcode_anlAImm : decodeOpcode 0x54#8 = some (.one .anlAImm) := rfl
@[simp] theorem decodeOpcode_xrlAImm : decodeOpcode 0x64#8 = some (.one .xrlAImm) := rfl
@[simp] theorem decodeOpcode_setb : decodeOpcode 0xD2#8 = some (.one .setb) := rfl

/-! ### Opcode bytes: the forms with a register number -/

@[simp] theorem decodeOpcode_movARn (n : Reg) : decodeOpcode (withReg 0xE8#8 n) = some (.ready (.movARn n)) := by
  fin_cases n <;> rfl

@[simp] theorem decodeOpcode_movRnImm (n : Reg) : decodeOpcode (withReg 0x78#8 n) = some (.one (.movRnImm n)) := by
  fin_cases n <;> rfl

@[simp] theorem decodeOpcode_addARn (n : Reg) : decodeOpcode (withReg 0x28#8 n) = some (.ready (.addARn n)) := by
  fin_cases n <;> rfl

@[simp] theorem decodeOpcode_subARn (n : Reg) : decodeOpcode (withReg 0x98#8 n) = some (.ready (.subARn n)) := by
  fin_cases n <;> rfl

@[simp] theorem decodeOpcode_decRn (n : Reg) : decodeOpcode (withReg 0x18#8 n) = some (.ready (.decRn n)) := by
  fin_cases n <;> rfl

@[simp] theorem decodeOpcode_orlARn (n : Reg) : decodeOpcode (withReg 0x48#8 n) = some (.ready (.orlARn n)) := by
  fin_cases n <;> rfl

@[simp] theorem decodeOpcode_anlARn (n : Reg) : decodeOpcode (withReg 0x58#8 n) = some (.ready (.anlARn n)) := by
  fin_cases n <;> rfl

@[simp] theorem decodeOpcode_xrlARn (n : Reg) : decodeOpcode (withReg 0x68#8 n) = some (.ready (.xrlARn n)) := by
  fin_cases n <;> rfl

/-- No byte of a register form is the halt sentinel: the sentinel is one of `MOV Rn,A`'s bytes only (R100). -/
theorem withReg_ne_haltByte (n : Reg) :
    withReg 0xE8#8 n ≠ Config.haltByte ∧ withReg 0x78#8 n ≠ Config.haltByte ∧ withReg 0x28#8 n ≠ Config.haltByte ∧
    withReg 0x98#8 n ≠ Config.haltByte ∧ withReg 0x18#8 n ≠ Config.haltByte ∧ withReg 0x48#8 n ≠ Config.haltByte ∧
    withReg 0x58#8 n ≠ Config.haltByte ∧ withReg 0x68#8 n ≠ Config.haltByte := by
  revert n
  decide

/-! ### Operand bytes -/

@[simp] theorem OpForm.complete_ready {σ ε : Type} (next : σ → Except ε (Byte × σ)) (i : Instr) (s : σ) :
    (OpForm.ready i).complete next s = .ok (i, s) := rfl

theorem OpForm.complete_one {σ ε : Type} {next : σ → Except ε (Byte × σ)} (mk : Byte → Instr) {s s1 : σ} {x : Byte}
    (h : next s = .ok (x, s1)) : (OpForm.one mk).complete next s = .ok (mk x, s1) := by
  simp [OpForm.complete, h]

theorem OpForm.complete_two {σ ε : Type} {next : σ → Except ε (Byte × σ)} (mk : Byte → Byte → Instr) {s s1 s2 : σ}
    {x y : Byte} (h : next s = .ok (x, s1)) (h1 : next s1 = .ok (y, s2)) :
    (OpForm.two mk).complete next s = .ok (mk x y, s2) := by
  simp [OpForm.complete, h, h1]

end Sys2Proof
end

