-- ==== Sys2Proof/Laws/Memory.lean ====
section
/-! SUPPORT. The two byte arrays: what a replaced cell reads as, and that the canonical form is kept. -/

namespace Sys2Proof.Machine

/-! ### Cells -/

theorem cellsGet_erase_same (cells : List Host.Cell) (addr : Nat) :
    cellsGet (cellsErase cells addr) addr = Config.powerOnByte := by
  induction cells with
  | nil => rfl
  | cons c rest ih =>
    obtain ⟨k, x⟩ := c
    by_cases h : k = addr
    · simpa [cellsErase, h] using ih
    · have h' : ¬addr = k := fun e => h e.symm
      simpa [cellsErase, cellsGet, h, h'] using ih

theorem cellsGet_erase_other (cells : List Host.Cell) {addr other : Nat} (ne : other ≠ addr) :
    cellsGet (cellsErase cells addr) other = cellsGet cells other := by
  induction cells with
  | nil => rfl
  | cons c rest ih =>
    obtain ⟨k, x⟩ := c
    by_cases h : k = addr
    · subst h
      simpa [cellsErase, cellsGet, ne] using ih
    · by_cases h' : other = k
      · simp [cellsErase, cellsGet, h, h']
      · simpa [cellsErase, cellsGet, h, h'] using ih

theorem cellsGet_insert_same (cells : List Host.Cell) (addr : Nat) (v : Byte) :
    cellsGet (cellsInsert cells addr v) addr = v := by
  induction cells with
  | nil => simp [cellsInsert, cellsGet]
  | cons c rest ih =>
    obtain ⟨k, x⟩ := c
    simp only [cellsInsert]
    split
    · simp [cellsGet]
    · split
      · simp [cellsGet]
      · simp [cellsGet, *]

theorem cellsGet_insert_other (cells : List Host.Cell) {addr other : Nat} (v : Byte) (ne : other ≠ addr) :
    cellsGet (cellsInsert cells addr v) other = cellsGet cells other := by
  induction cells with
  | nil => simp [cellsInsert, cellsGet, ne]
  | cons c rest ih =>
    obtain ⟨k, x⟩ := c
    simp only [cellsInsert]
    split
    · simp [cellsGet, ne]
    · split
      · next h => simp [cellsGet, ne, ← h]
      · simp [cellsGet, ih]

theorem mem_cellsInsert {cells : List Host.Cell} {addr : Nat} {v : Byte} {c : Host.Cell}
    (h : c ∈ cellsInsert cells addr v) : c = (addr, v) ∨ c ∈ cells := by
  induction cells with
  | nil => simpa [cellsInsert] using h
  | cons d rest ih =>
    obtain ⟨k, x⟩ := d
    simp only [cellsInsert] at h
    split at h
    · simpa using h
    · split at h
      · rcases List.mem_cons.1 h with h | h
        · exact .inl h
        · exact .inr (List.mem_cons_of_mem _ h)
      · rcases List.mem_cons.1 h with h | h
        · exact .inr (h ▸ List.mem_cons_self ..)
        · exact (ih h).imp id (List.mem_cons_of_mem _)

theorem cellsInsert_pairwise {cells : List Host.Cell} (addr : Nat) (v : Byte)
    (h : cells.Pairwise (fun x y => x.1 < y.1)) :
    (cellsInsert cells addr v).Pairwise (fun x y => x.1 < y.1) := by
  induction cells with
  | nil => simp [cellsInsert]
  | cons d rest ih =>
    obtain ⟨k, x⟩ := d
    obtain ⟨first, later⟩ := List.pairwise_cons.1 h
    simp only [cellsInsert]
    split
    · next lt =>
      refine List.pairwise_cons.2 ⟨fun c hc => ?_, h⟩
      rcases List.mem_cons.1 hc with rfl | hc
      · exact lt
      · exact lt.trans (first c hc)
    · split
      · next e => exact List.pairwise_cons.2 ⟨fun c hc => e ▸ first c hc, later⟩
      · refine List.pairwise_cons.2 ⟨fun c hc => ?_, ih later⟩
        rcases mem_cellsInsert hc with rfl | hc
        · simp only; omega
        · exact first c hc

/-! ### Arrays -/

@[simp] theorem Memory.set_length (m : Memory) (addr : Nat) (v : Byte) : (m.set addr v).length = m.length := rfl

/-- A replaced cell holds the new byte. -/
@[simp] theorem Memory.get_set_same (m : Memory) (addr : Nat) (v : Byte) : (m.set addr v).get addr = v := by
  simp only [Memory.get, Memory.set, cellsSet]
  split
  · next h => rw [h]; exact cellsGet_erase_same ..
  · exact cellsGet_insert_same ..

/-- Every other cell is left alone. -/
theorem Memory.get_set_other (m : Memory) {addr other : Nat} (v : Byte) (ne : other ≠ addr) :
    (m.set addr v).get other = m.get other := by
  simp only [Memory.get, Memory.set, cellsSet]
  split
  · exact cellsGet_erase_other _ ne
  · exact cellsGet_insert_other _ _ ne

/-- What every cell holds after a replacement. -/
theorem Memory.get_set (m : Memory) (addr other : Nat) (v : Byte) :
    (m.set addr v).get other = if other = addr then v else m.get other := by
  split
  · next h => subst h; exact m.get_set_same ..
  · next h => exact m.get_set_other v h

/-- Replacing a cell below the length keeps the canonical form. -/
theorem Memory.set_wf {m : Memory} {addr : Nat} (v : Byte) (h : m.wf) (lt : addr < m.length) : (m.set addr v).wf := by
  obtain ⟨sorted, listed⟩ := h
  simp only [Memory.wf, Memory.set, cellsSet]
  split
  · exact ⟨sorted.filter _, fun c hc => listed c (List.mem_filter.1 hc).1⟩
  · next nz =>
    refine ⟨cellsInsert_pairwise addr v sorted, fun c hc => ?_⟩
    rcases mem_cellsInsert hc with rfl | hc
    · exact ⟨lt, nz⟩
    · exact listed c hc

theorem Memory.powerOn_wf (length : Nat) : (Memory.powerOn length).wf := by
  simp [Memory.wf, Memory.powerOn]

@[simp] theorem Memory.powerOn_length (length : Nat) : (Memory.powerOn length).length = length := rfl

@[simp] theorem Memory.powerOn_get (length addr : Nat) : (Memory.powerOn length).get addr = Config.powerOnByte := rfl

theorem Memory.read_of_lt {m : Memory} {addr : Nat} (space : Space) (h : addr < m.length) :
    m.read space addr = .ok (m.get addr) := by
  simp [Memory.read, Nat.not_le.2 h]

theorem Memory.read_of_le {m : Memory} {addr : Nat} (space : Space) (h : m.length ≤ addr) :
    m.read space addr = .error (.addressError space addr m.length) := by
  simp [Memory.read, h]

/-- All that a successful read says. -/
theorem Memory.read_eq_ok {m : Memory} {addr : Nat} {space : Space} {v : Byte} :
    m.read space addr = .ok v ↔ addr < m.length ∧ m.get addr = v := by
  simp only [Memory.read]
  split
  · next h => simp [Nat.not_lt.2 h]
  · next h => simp [Nat.not_le.1 h]

theorem Memory.write_of_lt {m : Memory} {addr : Nat} (space : Space) (v : Byte) (h : addr < m.length) :
    m.write space addr v = .ok (m.set addr v) := by
  simp [Memory.write, Nat.not_le.2 h]

theorem Memory.write_of_le {m : Memory} {addr : Nat} (space : Space) (v : Byte) (h : m.length ≤ addr) :
    m.write space addr v = .error (.addressError space addr m.length) := by
  simp [Memory.write, h]

@[simp] theorem Memory.place_length (m : Memory) (first : Nat) (bytes : List Byte) :
    (m.place first bytes).length = m.length := by
  induction bytes generalizing m first with
  | nil => rfl
  | cons x rest ih =>
    simp only [Memory.place]
    rw [ih]
    split <;> rfl

/-- Placing bytes keeps the canonical form: a byte for which the array has no cell is dropped. -/
theorem Memory.place_wf {m : Memory} (first : Nat) (bytes : List Byte) (h : m.wf) : (m.place first bytes).wf := by
  induction bytes generalizing m first with
  | nil => exact h
  | cons x rest ih =>
    simp only [Memory.place]
    apply ih
    split
    · next lt => exact Memory.set_wf x h lt
    · exact h

end Sys2Proof.Machine
end

