-- ==== Sys2Proof/Laws/State.lean ====
section
/-! SUPPORT. One lemma per field per update of the state, so that no later proof unfolds a record update. -/

namespace Sys2Proof.Machine

@[simp] theorem State.setPc_pc (s : State) (v : Addr) : (s.setPc v).pc = v := rfl
@[simp] theorem State.setPc_a (s : State) (v : Addr) : (s.setPc v).a = s.a := rfl
@[simp] theorem State.setPc_b (s : State) (v : Addr) : (s.setPc v).b = s.b := rfl
@[simp] theorem State.setPc_dptr (s : State) (v : Addr) : (s.setPc v).dptr = s.dptr := rfl
@[simp] theorem State.setPc_flags (s : State) (v : Addr) : (s.setPc v).flags = s.flags := rfl
@[simp] theorem State.setPc_code (s : State) (v : Addr) : (s.setPc v).code = s.code := rfl
@[simp] theorem State.setPc_data (s : State) (v : Addr) : (s.setPc v).data = s.data := rfl
@[simp] theorem State.setPc_pins (s : State) (v : Addr) : (s.setPc v).pins = s.pins := rfl
@[simp] theorem State.setPc_status (s : State) (v : Addr) : (s.setPc v).status = s.status := rfl

@[simp] theorem State.setA_pc (s : State) (v : Byte) : (s.setA v).pc = s.pc := rfl
@[simp] theorem State.setA_a (s : State) (v : Byte) : (s.setA v).a = v := rfl
@[simp] theorem State.setA_b (s : State) (v : Byte) : (s.setA v).b = s.b := rfl
@[simp] theorem State.setA_dptr (s : State) (v : Byte) : (s.setA v).dptr = s.dptr := rfl
@[simp] theorem State.setA_flags (s : State) (v : Byte) : (s.setA v).flags = s.flags := rfl
@[simp] theorem State.setA_code (s : State) (v : Byte) : (s.setA v).code = s.code := rfl
@[simp] theorem State.setA_data (s : State) (v : Byte) : (s.setA v).data = s.data := rfl
@[simp] theorem State.setA_pins (s : State) (v : Byte) : (s.setA v).pins = s.pins := rfl
@[simp] theorem State.setA_status (s : State) (v : Byte) : (s.setA v).status = s.status := rfl

@[simp] theorem State.setB_pc (s : State) (v : Byte) : (s.setB v).pc = s.pc := rfl
@[simp] theorem State.setB_a (s : State) (v : Byte) : (s.setB v).a = s.a := rfl
@[simp] theorem State.setB_b (s : State) (v : Byte) : (s.setB v).b = v := rfl
@[simp] theorem State.setB_dptr (s : State) (v : Byte) : (s.setB v).dptr = s.dptr := rfl
@[simp] theorem State.setB_flags (s : State) (v : Byte) : (s.setB v).flags = s.flags := rfl
@[simp] theorem State.setB_code (s : State) (v : Byte) : (s.setB v).code = s.code := rfl
@[simp] theorem State.setB_data (s : State) (v : Byte) : (s.setB v).data = s.data := rfl
@[simp] theorem State.setB_pins (s : State) (v : Byte) : (s.setB v).pins = s.pins := rfl
@[simp] theorem State.setB_status (s : State) (v : Byte) : (s.setB v).status = s.status := rfl

@[simp] theorem State.setFlags_pc (s : State) (v : Flags) : (s.setFlags v).pc = s.pc := rfl
@[simp] theorem State.setFlags_a (s : State) (v : Flags) : (s.setFlags v).a = s.a := rfl
@[simp] theorem State.setFlags_b (s : State) (v : Flags) : (s.setFlags v).b = s.b := rfl
@[simp] theorem State.setFlags_dptr (s : State) (v : Flags) : (s.setFlags v).dptr = s.dptr := rfl
@[simp] theorem State.setFlags_flags (s : State) (v : Flags) : (s.setFlags v).flags = v := rfl
@[simp] theorem State.setFlags_code (s : State) (v : Flags) : (s.setFlags v).code = s.code := rfl
@[simp] theorem State.setFlags_data (s : State) (v : Flags) : (s.setFlags v).data = s.data := rfl
@[simp] theorem State.setFlags_pins (s : State) (v : Flags) : (s.setFlags v).pins = s.pins := rfl
@[simp] theorem State.setFlags_status (s : State) (v : Flags) : (s.setFlags v).status = s.status := rfl

@[simp] theorem State.setCode_pc (s : State) (v : Memory) : (s.setCode v).pc = s.pc := rfl
@[simp] theorem State.setCode_a (s : State) (v : Memory) : (s.setCode v).a = s.a := rfl
@[simp] theorem State.setCode_b (s : State) (v : Memory) : (s.setCode v).b = s.b := rfl
@[simp] theorem State.setCode_dptr (s : State) (v : Memory) : (s.setCode v).dptr = s.dptr := rfl
@[simp] theorem State.setCode_flags (s : State) (v : Memory) : (s.setCode v).flags = s.flags := rfl
@[simp] theorem State.setCode_code (s : State) (v : Memory) : (s.setCode v).code = v := rfl
@[simp] theorem State.setCode_data (s : State) (v : Memory) : (s.setCode v).data = s.data := rfl
@[simp] theorem State.setCode_pins (s : State) (v : Memory) : (s.setCode v).pins = s.pins := rfl
@[simp] theorem State.setCode_status (s : State) (v : Memory) : (s.setCode v).status = s.status := rfl

@[simp] theorem State.setData_pc (s : State) (v : Memory) : (s.setData v).pc = s.pc := rfl
@[simp] theorem State.setData_a (s : State) (v : Memory) : (s.setData v).a = s.a := rfl
@[simp] theorem State.setData_b (s : State) (v : Memory) : (s.setData v).b = s.b := rfl
@[simp] theorem State.setData_dptr (s : State) (v : Memory) : (s.setData v).dptr = s.dptr := rfl
@[simp] theorem State.setData_flags (s : State) (v : Memory) : (s.setData v).flags = s.flags := rfl
@[simp] theorem State.setData_code (s : State) (v : Memory) : (s.setData v).code = s.code := rfl
@[simp] theorem State.setData_data (s : State) (v : Memory) : (s.setData v).data = v := rfl
@[simp] theorem State.setData_pins (s : State) (v : Memory) : (s.setData v).pins = s.pins := rfl
@[simp] theorem State.setData_status (s : State) (v : Memory) : (s.setData v).status = s.status := rfl

@[simp] theorem State.setPins_pc (s : State) (v : Pins) : (s.setPins v).pc = s.pc := rfl
@[simp] theorem State.setPins_a (s : State) (v : Pins) : (s.setPins v).a = s.a := rfl
@[simp] theorem State.setPins_b (s : State) (v : Pins) : (s.setPins v).b = s.b := rfl
@[simp] theorem State.setPins_dptr (s : State) (v : Pins) : (s.setPins v).dptr = s.dptr := rfl
@[simp] theorem State.setPins_flags (s : State) (v : Pins) : (s.setPins v).flags = s.flags := rfl
@[simp] theorem State.setPins_code (s : State) (v : Pins) : (s.setPins v).code = s.code := rfl
@[simp] theorem State.setPins_data (s : State) (v : Pins) : (s.setPins v).data = s.data := rfl
@[simp] theorem State.setPins_pins (s : State) (v : Pins) : (s.setPins v).pins = v := rfl
@[simp] theorem State.setPins_status (s : State) (v : Pins) : (s.setPins v).status = s.status := rfl

@[simp] theorem State.setStatus_pc (s : State) (v : RunStatus) : (s.setStatus v).pc = s.pc := rfl
@[simp] theorem State.setStatus_a (s : State) (v : RunStatus) : (s.setStatus v).a = s.a := rfl
@[simp] theorem State.setStatus_b (s : State) (v : RunStatus) : (s.setStatus v).b = s.b := rfl
@[simp] theorem State.setStatus_dptr (s : State) (v : RunStatus) : (s.setStatus v).dptr = s.dptr := rfl
@[simp] theorem State.setStatus_flags (s : State) (v : RunStatus) : (s.setStatus v).flags = s.flags := rfl
@[simp] theorem State.setStatus_code (s : State) (v : RunStatus) : (s.setStatus v).code = s.code := rfl
@[simp] theorem State.setStatus_data (s : State) (v : RunStatus) : (s.setStatus v).data = s.data := rfl
@[simp] theorem State.setStatus_pins (s : State) (v : RunStatus) : (s.setStatus v).pins = s.pins := rfl
@[simp] theorem State.setStatus_status (s : State) (v : RunStatus) : (s.setStatus v).status = v := rfl

@[simp] theorem raise_pc (s : State) (e : ErrorValue) : (raise e s).pc = s.pc := rfl
@[simp] theorem raise_a (s : State) (e : ErrorValue) : (raise e s).a = s.a := rfl
@[simp] theorem raise_b (s : State) (e : ErrorValue) : (raise e s).b = s.b := rfl
@[simp] theorem raise_dptr (s : State) (e : ErrorValue) : (raise e s).dptr = s.dptr := rfl
@[simp] theorem raise_flags (s : State) (e : ErrorValue) : (raise e s).flags = s.flags := rfl
@[simp] theorem raise_code (s : State) (e : ErrorValue) : (raise e s).code = s.code := rfl
@[simp] theorem raise_data (s : State) (e : ErrorValue) : (raise e s).data = s.data := rfl
@[simp] theorem raise_pins (s : State) (e : ErrorValue) : (raise e s).pins = s.pins := rfl
@[simp] theorem raise_status (s : State) (e : ErrorValue) : (raise e s).status = .faulted e := rfl

@[simp] theorem writeParity_pc (s : State) (v : Byte) : (writeParity v s).pc = s.pc := rfl
@[simp] theorem writeParity_a (s : State) (v : Byte) : (writeParity v s).a = s.a := rfl
@[simp] theorem writeParity_b (s : State) (v : Byte) : (writeParity v s).b = s.b := rfl
@[simp] theorem writeParity_dptr (s : State) (v : Byte) : (writeParity v s).dptr = s.dptr := rfl
@[simp] theorem writeParity_flags (s : State) (v : Byte) : (writeParity v s).flags = { s.flags with p := parity v } := rfl
@[simp] theorem writeParity_code (s : State) (v : Byte) : (writeParity v s).code = s.code := rfl
@[simp] theorem writeParity_data (s : State) (v : Byte) : (writeParity v s).data = s.data := rfl
@[simp] theorem writeParity_pins (s : State) (v : Byte) : (writeParity v s).pins = s.pins := rfl
@[simp] theorem writeParity_status (s : State) (v : Byte) : (writeParity v s).status = s.status := rfl

@[simp] theorem writeArithFlags_pc (s : State) (x : AluResult) : (writeArithFlags x s).pc = s.pc := rfl
@[simp] theorem writeArithFlags_a (s : State) (x : AluResult) : (writeArithFlags x s).a = s.a := rfl
@[simp] theorem writeArithFlags_b (s : State) (x : AluResult) : (writeArithFlags x s).b = s.b := rfl
@[simp] theorem writeArithFlags_dptr (s : State) (x : AluResult) : (writeArithFlags x s).dptr = s.dptr := rfl
@[simp] theorem writeArithFlags_flags (s : State) (x : AluResult) : (writeArithFlags x s).flags = { s.flags with cy := x.cy, ac := x.ac, ov := x.ov, p := parity x.r } := rfl
@[simp] theorem writeArithFlags_code (s : State) (x : AluResult) : (writeArithFlags x s).code = s.code := rfl
@[simp] theorem writeArithFlags_data (s : State) (x : AluResult) : (writeArithFlags x s).data = s.data := rfl
@[simp] theorem writeArithFlags_pins (s : State) (x : AluResult) : (writeArithFlags x s).pins = s.pins := rfl
@[simp] theorem writeArithFlags_status (s : State) (x : AluResult) : (writeArithFlags x s).status = s.status := rfl

@[simp] theorem accWithParity_pc (s : State) (v : Byte) : (accWithParity v s).pc = s.pc := rfl
@[simp] theorem accWithParity_a (s : State) (v : Byte) : (accWithParity v s).a = v := rfl
@[simp] theorem accWithParity_b (s : State) (v : Byte) : (accWithParity v s).b = s.b := rfl
@[simp] theorem accWithParity_dptr (s : State) (v : Byte) : (accWithParity v s).dptr = s.dptr := rfl
@[simp] theorem accWithParity_flags (s : State) (v : Byte) : (accWithParity v s).flags = { s.flags with p := parity v } := rfl
@[simp] theorem accWithParity_code (s : State) (v : Byte) : (accWithParity v s).code = s.code := rfl
@[simp] theorem accWithParity_data (s : State) (v : Byte) : (accWithParity v s).data = s.data := rfl
@[simp] theorem accWithParity_pins (s : State) (v : Byte) : (accWithParity v s).pins = s.pins := rfl
@[simp] theorem accWithParity_status (s : State) (v : Byte) : (accWithParity v s).status = s.status := rfl

@[simp] theorem accWithArith_pc (s : State) (x : AluResult) : (accWithArith x s).pc = s.pc := rfl
@[simp] theorem accWithArith_a (s : State) (x : AluResult) : (accWithArith x s).a = x.r := rfl
@[simp] theorem accWithArith_b (s : State) (x : AluResult) : (accWithArith x s).b = s.b := rfl
@[simp] theorem accWithArith_dptr (s : State) (x : AluResult) : (accWithArith x s).dptr = s.dptr := rfl
@[simp] theorem accWithArith_flags (s : State) (x : AluResult) : (accWithArith x s).flags = { s.flags with cy := x.cy, ac := x.ac, ov := x.ov, p := parity x.r } := rfl
@[simp] theorem accWithArith_code (s : State) (x : AluResult) : (accWithArith x s).code = s.code := rfl
@[simp] theorem accWithArith_data (s : State) (x : AluResult) : (accWithArith x s).data = s.data := rfl
@[simp] theorem accWithArith_pins (s : State) (x : AluResult) : (accWithArith x s).pins = s.pins := rfl
@[simp] theorem accWithArith_status (s : State) (x : AluResult) : (accWithArith x s).status = s.status := rfl

@[simp] theorem State.setPin_pc (s : State) (p : Fin 4) (k : Fin 8) : (s.setPin p k).pc = s.pc := rfl
@[simp] theorem State.setPin_a (s : State) (p : Fin 4) (k : Fin 8) : (s.setPin p k).a = s.a := rfl
@[simp] theorem State.setPin_b (s : State) (p : Fin 4) (k : Fin 8) : (s.setPin p k).b = s.b := rfl
@[simp] theorem State.setPin_dptr (s : State) (p : Fin 4) (k : Fin 8) : (s.setPin p k).dptr = s.dptr := rfl
@[simp] theorem State.setPin_flags (s : State) (p : Fin 4) (k : Fin 8) : (s.setPin p k).flags = s.flags := rfl
@[simp] theorem State.setPin_code (s : State) (p : Fin 4) (k : Fin 8) : (s.setPin p k).code = s.code := rfl
@[simp] theorem State.setPin_data (s : State) (p : Fin 4) (k : Fin 8) : (s.setPin p k).data = s.data := rfl
@[simp] theorem State.setPin_pins (s : State) (p : Fin 4) (k : Fin 8) : (s.setPin p k).pins = s.pins.set p ((s.pins.get p).set k true) := rfl
@[simp] theorem State.setPin_status (s : State) (p : Fin 4) (k : Fin 8) : (s.setPin p k).status = s.status := rfl

@[simp] theorem State.cpuReset_pc (s : State) : (s.cpuReset).pc = 0x0000#16 := rfl
@[simp] theorem State.cpuReset_a (s : State) : (s.cpuReset).a = 0x00#8 := rfl
@[simp] theorem State.cpuReset_b (s : State) : (s.cpuReset).b = 0x00#8 := rfl
@[simp] theorem State.cpuReset_dptr (s : State) : (s.cpuReset).dptr = 0x0000#16 := rfl
@[simp] theorem State.cpuReset_flags (s : State) : (s.cpuReset).flags = Flags.cleared := rfl
@[simp] theorem State.cpuReset_code (s : State) : (s.cpuReset).code = s.code := rfl
@[simp] theorem State.cpuReset_data (s : State) : (s.cpuReset).data = s.data := rfl
@[simp] theorem State.cpuReset_pins (s : State) : (s.cpuReset).pins = s.pins := rfl
@[simp] theorem State.cpuReset_status (s : State) : (s.cpuReset).status = .running := rfl

@[simp] theorem State.pinReset_pc (s : State) : (s.pinReset).pc = s.pc := rfl
@[simp] theorem State.pinReset_a (s : State) : (s.pinReset).a = s.a := rfl
@[simp] theorem State.pinReset_b (s : State) : (s.pinReset).b = s.b := rfl
@[simp] theorem State.pinReset_dptr (s : State) : (s.pinReset).dptr = s.dptr := rfl
@[simp] theorem State.pinReset_flags (s : State) : (s.pinReset).flags = s.flags := rfl
@[simp] theorem State.pinReset_code (s : State) : (s.pinReset).code = s.code := rfl
@[simp] theorem State.pinReset_data (s : State) : (s.pinReset).data = s.data := rfl
@[simp] theorem State.pinReset_pins (s : State) : (s.pinReset).pins = Pins.powerOn := rfl
@[simp] theorem State.pinReset_status (s : State) : (s.pinReset).status = s.status := rfl

end Sys2Proof.Machine
end

