-- ==== Sys2Proof/Laws/Ops.lean ====
section
/-! SUPPORT. One spec lemma per shared operation: all that it can do, to be cited where it is called. -/

namespace Sys2Proof.Machine

/-! ### The four access functions -/

theorem readCode_of_lt {s : State} {addr : Nat} (h : addr < s.code.length) : readCode s addr = .ok (s.code.get addr) :=
  Memory.read_of_lt .code h

theorem readCode_of_le {s : State} {addr : Nat} (h : s.code.length ≤ addr) :
    readCode s addr = .error (.addressError .code addr s.code.length) :=
  Memory.read_of_le .code h

theorem readCode_eq_ok {s : State} {addr : Nat} {v : Byte} :
    readCode s addr = .ok v ↔ addr < s.code.length ∧ s.code.get addr = v :=
  Memory.read_eq_ok

theorem readData_of_lt {s : State} {addr : Nat} (h : addr < s.data.length) : readData s addr = .ok (s.data.get addr) :=
  Memory.read_of_lt .data h

theorem readData_of_le {s : State} {addr : Nat} (h : s.data.length ≤ addr) :
    readData s addr = .error (.addressError .data addr s.data.length) :=
  Memory.read_of_le .data h

theorem readData_eq_ok {s : State} {addr : Nat} {v : Byte} :
    readData s addr = .ok v ↔ addr < s.data.length ∧ s.data.get addr = v :=
  Memory.read_eq_ok

theorem writeCode_of_lt {s : State} {addr : Nat} (v : Byte) (h : addr < s.code.length) :
    writeCode s addr v = .ok (s.setCode (s.code.set addr v)) := by
  simp [writeCode, Memory.write_of_lt .code v h]

theorem writeCode_of_le {s : State} {addr : Nat} (v : Byte) (h : s.code.length ≤ addr) :
    writeCode s addr v = .error (.addressError .code addr s.code.length) := by
  simp [writeCode, Memory.write_of_le .code v h]

theorem writeData_of_lt {s : State} {addr : Nat} (v : Byte) (h : addr < s.data.length) :
    writeData s addr v = .ok (s.setData (s.data.set addr v)) := by
  simp [writeData, Memory.write_of_lt .data v h]

theorem writeData_of_le {s : State} {addr : Nat} (v : Byte) (h : s.data.length ≤ addr) :
    writeData s addr v = .error (.addressError .data addr s.data.length) := by
  simp [writeData, Memory.write_of_le .data v h]

/-! ### Register and direct operands -/

/-- Reading `R[n]`: go on with the cell's byte, or raise and change nothing else. -/
theorem withRegister_cases (n : Reg) (s : State) (k : Byte → Result) :
    (regAddress n < s.data.length ∧ withRegister n s k = k (s.data.get (regAddress n))) ∨
    (s.data.length ≤ regAddress n ∧
      withRegister n s k = .next (raise (.addressError .data (regAddress n) s.data.length) s)) := by
  rcases Nat.lt_or_ge (regAddress n) s.data.length with h | h
  · exact .inl ⟨h, by simp [withRegister, readReg, readData_of_lt h, readThen]⟩
  · exact .inr ⟨h, by simp [withRegister, readReg, readData_of_le h, readThen]⟩

/-- Writing `R[n]`: go on with that one cell replaced, or raise and change nothing else. -/
theorem storeRegister_cases (n : Reg) (v : Byte) (s : State) (k : State → Result) :
    (regAddress n < s.data.length ∧ storeRegister n v s k = k (s.setData (s.data.set (regAddress n) v))) ∨
    (s.data.length ≤ regAddress n ∧
      storeRegister n v s k = .next (raise (.addressError .data (regAddress n) s.data.length) s)) := by
  rcases Nat.lt_or_ge (regAddress n) s.data.length with h | h
  · exact .inl ⟨h, by simp [storeRegister, writeReg, writeData_of_lt v h, writeThen]⟩
  · exact .inr ⟨h, by simp [storeRegister, writeReg, writeData_of_le v h, writeThen]⟩

/-- Writing the direct code cell: go on with that one cell replaced, or raise and change nothing else. -/
theorem storeDirect_cases (direct v : Byte) (s : State) (k : State → Result) :
    (directAddress direct < s.code.length ∧
      storeDirect direct v s k = k (s.setCode (s.code.set (directAddress direct) v))) ∨
    (s.code.length ≤ directAddress direct ∧
      storeDirect direct v s k = .next (raise (.addressError .code (directAddress direct) s.code.length) s)) := by
  rcases Nat.lt_or_ge (directAddress direct) s.code.length with h | h
  · exact .inl ⟨h, by simp [storeDirect, writeCode_of_lt v h, writeThen]⟩
  · exact .inr ⟨h, by simp [storeDirect, writeCode_of_le v h, writeThen]⟩

theorem directAddress_eq (direct : Byte) : directAddress direct = direct.toNat := by
  have := direct.isLt
  simp only [directAddress, zext16, BitVec.toNat_setWidth]
  omega

/-! ### The bit router's data bits -/

/-- Setting a data bit: one cell replaced, or an error raised with nothing else changed. -/
theorem setTarget_dataBit_cases (i : Nat) (k : Fin 8) (s : State) :
    (i < s.data.length ∧ setTarget (.dataBit i k) s = .next (s.setData (s.data.set i (orBit (s.data.get i) k)))) ∨
    (s.data.length ≤ i ∧ setTarget (.dataBit i k) s = .next (raise (.addressError .data i s.data.length) s)) := by
  rcases Nat.lt_or_ge i s.data.length with h | h
  · exact .inl ⟨h, by simp [setTarget, readData_of_lt h, writeData_of_lt _ h, readThen, writeThen]⟩
  · exact .inr ⟨h, by simp [setTarget, readData_of_le h, readThen]⟩

/-! ### Pins -/

/-- After `setHigh()` on one pin, that pin is high and every other keeps its level. -/
theorem State.pin_setPin (s : State) (p q : Fin 4) (k j : Fin 8) :
    (s.setPin p k).pin q j = if q = p ∧ j = k then true else s.pin q j := by
  simp only [State.pin, State.setPin_pins, Vector.get_eq_getElem, Vector.getElem_set]
  by_cases hp : p.val = q.val
  · have hq : q = p := Fin.ext hp.symm
    subst hq
    simp only [if_true, Vector.getElem_set, true_and]
    by_cases hk : k.val = j.val
    · have hj : j = k := Fin.ext hk.symm
      simp [hj]
    · have hj : ¬j = k := fun e => hk (by rw [e])
      simp [hk, hj]
  · have hq : ¬q = p := fun e => hp (by rw [e])
    simp [hp, hq]

theorem Pins.powerOn_low (p : Fin 4) (k : Fin 8) : (Vector.get Pins.powerOn p).get k = false := by
  simp [Pins.powerOn, Config.powerOnPin, Vector.get_eq_getElem]

/-! ### Fetching -/

theorem fetch_of_lt {s : State} (h : s.pc.toNat < s.code.length) :
    fetch s = .ok (s.code.get s.pc.toNat, s.setPc (s.pc + 1#16)) := by
  simp [fetch, readCode_of_lt h]

theorem fetch_of_le {s : State} (h : s.code.length ≤ s.pc.toNat) :
    fetch s = .error (.addressError .code s.pc.toNat s.code.length) := by
  simp [fetch, readCode_of_le h]

/-- The increment of the program counter does not wrap where a fetch succeeds (spec/40_sequencer.md R125). -/
theorem pc_add_one_toNat {s : State} (size : s.code.length ≤ Config.maxCodeSize) (h : s.pc.toNat < s.code.length) :
    (s.pc + 1#16).toNat = s.pc.toNat + 1 := by
  simp only [Config.maxCodeSize] at size
  simp only [BitVec.toNat_add, BitVec.toNat_ofNat]
  omega

/-! ### One step -/

theorem step_of_halted {s : State} (h : s.status = .halted) : step s = .fault .runHalted := by
  simp [step, h]

theorem step_of_faulted {s : State} {e : ErrorValue} (h : s.status = .faulted e) : step s = .fault (.runFaulted e) := by
  simp [step, h]

/-- A step in `RUNNING` is the fetch of one instruction, then its execution or the error of the fetch. -/
theorem step_cases {s : State} (h : s.status = .running) :
    (∃ e t, fetchInstr s = .error (e, t) ∧ step s = .next (raise e t)) ∨
    (∃ i t, fetchInstr s = .ok (i, t) ∧ step s = exec i t) := by
  simp only [step, h]
  cases hf : fetchInstr s with
  | error x => exact .inl ⟨x.1, x.2, rfl, rfl⟩
  | ok x => exact .inr ⟨x.1, x.2, rfl, rfl⟩

end Sys2Proof.Machine
end

