-- ==== Sys2Proof/Laws/PerInstr.lean ====
section
/-! SUPPORT. Statements made per instruction, one lemma per constructor of `Instr`. -/

namespace Sys2Proof.Laws.Encoding

/-- An instruction's bytes are as many as its length (spec/30_encoding.md R90), pass the check written from the opcode map (R99,
R103, R105), and begin with the halt sentinel only for the halt sentinel itself (R100). -/
def Statement (i : Instr) : Prop :=
  (encode i).length = i.length ∧ bytesWellFormed (encode i) = true ∧
    ((encode i).head? = some Config.haltByte ↔ i = .halt)

theorem clrA : Statement .clrA := by
  simp [Statement, encode, Instr.length, bytesWellFormed, opcodeLength, Config.haltByte]

theorem cplA : Statement .cplA := by
  simp [Statement, encode, Instr.length, bytesWellFormed, opcodeLength, Config.haltByte]

theorem movAImm (imm : Byte) : Statement (.movAImm imm) := by
  simp [Statement, encode, Instr.length, bytesWellFormed, opcodeLength, Config.haltByte]

theorem movARn (n : Reg) : Statement (.movARn n) := by
  refine ⟨rfl, ?_, ?_⟩ <;> fin_cases n <;> simp [encode, withReg, bytesWellFormed, opcodeLength, Config.haltByte]

theorem movR0A : Statement .movR0A := by
  simp [Statement, encode, Instr.length, bytesWellFormed, opcodeLength, Config.haltByte]

theorem movR1A : Statement .movR1A := by
  simp [Statement, encode, Instr.length, bytesWellFormed, opcodeLength, Config.haltByte]

theorem movR2A : Statement .movR2A := by
  simp [Statement, encode, Instr.length, bytesWellFormed, opcodeLength, Config.haltByte]

theorem movR3A : Statement .movR3A := by
  simp [Statement, encode, Instr.length, bytesWellFormed, opcodeLength, Config.haltByte]

theorem movR4A : Statement .movR4A := by
  simp [Statement, encode, Instr.length, bytesWellFormed, opcodeLength, Config.haltByte]

theorem movR5A : Statement .movR5A := by
  simp [Statement, encode, Instr.length, bytesWellFormed, opcodeLength, Config.haltByte]

theorem movR6A : Statement .movR6A := by
  simp [Statement, encode, Instr.length, bytesWellFormed, opcodeLength, Config.haltByte]

theorem movDirectImm (direct imm : Byte) : Statement (.movDirectImm direct imm) := by
  simp [Statement, encode, Instr.length, bytesWellFormed, opcodeLength, Config.haltByte]

theorem movRnImm (n : Reg) (imm : Byte) : Statement (.movRnImm n imm) := by
  refine ⟨rfl, ?_, ?_⟩ <;> fin_cases n <;> simp [encode, withReg, bytesWellFormed, opcodeLength, Config.haltByte]

theorem addAImm (imm : Byte) : Statement (.addAImm imm) := by
  simp [Statement, encode, Instr.length, bytesWellFormed, opcodeLength, Config.haltByte]

theorem addARn (n : Reg) : Statement (.addARn n) := by
  refine ⟨rfl, ?_, ?_⟩ <;> fin_cases n <;> simp [encode, withReg, bytesWellFormed, opcodeLength, Config.haltByte]

theorem subAImm (imm : Byte) : Statement (.subAImm imm) := by
  simp [Statement, encode, Instr.length, bytesWellFormed, opcodeLength, Config.haltByte]

theorem subARn (n : Reg) : Statement (.subARn n) := by
  refine ⟨rfl, ?_, ?_⟩ <;> fin_cases n <;> simp [encode, withReg, bytesWellFormed, opcodeLength, Config.haltByte]

theorem decA : Statement .decA := by
  simp [Statement, encode, Instr.length, bytesWellFormed, opcodeLength, Config.haltByte]

theorem decRn (n : Reg) : Statement (.decRn n) := by
  refine ⟨rfl, ?_, ?_⟩ <;> fin_cases n <;> simp [encode, withReg, bytesWellFormed, opcodeLength, Config.haltByte]

theorem orlAImm (imm : Byte) : Statement (.orlAImm imm) := by
  simp [Statement, encode, Instr.length, bytesWellFormed, opcodeLength, Config.haltByte]

theorem orlARn (n : Reg) : Statement (.orlARn n) := by
  refine ⟨rfl, ?_, ?_⟩ <;> fin_cases n <;> simp [encode, withReg, bytesWellFormed, opcodeLength, Config.haltByte]

theorem anlAImm (imm : Byte) : Statement (.anlAImm imm) := by
  simp [Statement, encode, Instr.length, bytesWellFormed, opcodeLength, Config.haltByte]

theorem anlARn (n : Reg) : Statement (.anlARn n) := by
  refine ⟨rfl, ?_, ?_⟩ <;> fin_cases n <;> simp [encode, withReg, bytesWellFormed, opcodeLength, Config.haltByte]

theorem xrlAImm (imm : Byte) : Statement (.xrlAImm imm) := by
  simp [Statement, encode, Instr.length, bytesWellFormed, opcodeLength, Config.haltByte]

theorem xrlARn (n : Reg) : Statement (.xrlARn n) := by
  refine ⟨rfl, ?_, ?_⟩ <;> fin_cases n <;> simp [encode, withReg, bytesWellFormed, opcodeLength, Config.haltByte]

theorem setb (bit : Byte) : Statement (.setb bit) := by
  simp [Statement, encode, Instr.length, bytesWellFormed, opcodeLength, Config.haltByte]

theorem halt : Statement .halt := by
  simp [Statement, encode, Instr.length, bytesWellFormed, opcodeLength, Config.haltByte]

end Sys2Proof.Laws.Encoding
end

