-- ==== Sys2Proof/Tests/Slice0.lean ====
section
/-! SUPPORT. Tests. Every expected value is from spec/: the numbered vectors of spec/95_test_vectors.md (U, M, A, L, B, Q, F, Z, S and
P entries) or the tables of the rule named. The last section shows, for each obligation that has hypotheses, a concrete input that
meets them. -/

namespace Sys2Proof.Machine

/-! ### Small states -/

/-- Power-on with a program in code space, the start of every vector of spec/95_test_vectors.md. -/
def begun (program : List Byte) : State := State.reset.placeAtPc program

/-- Power-on with sizes and a program, for the vectors that state sizes. -/
def begunSized (codeSize dataSize : Nat) (program : List Byte) : State := (State.powerOn codeSize dataSize).placeAtPc program

/-- A start override of one data cell. -/
def State.withCell (s : State) (addr : Nat) (v : Byte) : State := { s with data := s.data.set addr v }

/-- What a test looks at in the state an outcome answers. -/
def seen {α : Type} (o : Result) (look : State → α) : Option α :=
  match o with
  | .next t => some (look t)
  | _ => none

/-- The columns `PC`, `A` and `PSW`. -/
def pcAPsw (s : State) : Addr × Byte × Byte := (s.pc, s.a, s.psw)

/-- The columns `PC` and `status`. -/
def pcStatus (s : State) : Addr × RunStatus := (s.pc, s.status)

/-! ### WellFormed refuses an ill-formed term at each of its checks -/

theorem test_wellformed_refuses_large_code : sizesWellFormed 65536 128 = false := by decide
theorem test_wellformed_admits_limit : sizesWellFormed 65535 0 = true := by decide
theorem test_wellformed_refuses_long_program : programWellFormed 1 [0x74#8, 0x12#8] = false := by decide
theorem test_wellformed_refuses_no_bytes : bytesWellFormed [] = false := by decide
theorem test_wellformed_refuses_unsupported : bytesWellFormed [0x00#8] = false := by decide
theorem test_wellformed_refuses_short : bytesWellFormed [0x74#8] = false := by decide
theorem test_wellformed_refuses_long : bytesWellFormed [0xE4#8, 0x00#8] = false := by decide

/-! ### Decoding, every word written out bit by bit from spec/30_encoding.md R91 and R98 -/

theorem test_decode_clrA : decode [0b11100100#8] = .ok (.clrA, []) := by rfl
theorem test_decode_cplA : decode [0b11110100#8] = .ok (.cplA, []) := by rfl
theorem test_decode_movAImm : decode [0b01110100#8, 0b11111111#8] = .ok (.movAImm 0xFF#8, []) := by rfl
theorem test_decode_movARn : decode [0b11101101#8] = .ok (.movARn 5, []) := by rfl
theorem test_decode_movR0A : decode [0b11111000#8] = .ok (.movR0A, []) := by rfl
theorem test_decode_movR1A : decode [0b11111001#8] = .ok (.movR1A, []) := by rfl
theorem test_decode_movR2A : decode [0b11111010#8] = .ok (.movR2A, []) := by rfl
theorem test_decode_movR3A : decode [0b11111011#8] = .ok (.movR3A, []) := by rfl
theorem test_decode_movR4A : decode [0b11111100#8] = .ok (.movR4A, []) := by rfl
theorem test_decode_movR5A : decode [0b11111101#8] = .ok (.movR5A, []) := by rfl
theorem test_decode_movR6A : decode [0b11111110#8] = .ok (.movR6A, []) := by rfl
theorem test_decode_movDirectImm :
    decode [0b01110101#8, 0b00010000#8, 0b10101011#8, 0x11#8] = .ok (.movDirectImm 0x10#8 0xAB#8, [0x11#8]) := by rfl
theorem test_decode_movRnImm : decode [0b01111011#8, 0b01000010#8] = .ok (.movRnImm 3 0x42#8, []) := by rfl
theorem test_decode_addAImm : decode [0b00100100#8, 0b00000001#8] = .ok (.addAImm 0x01#8, []) := by rfl
theorem test_decode_addARn : decode [0b00101110#8] = .ok (.addARn 6, []) := by rfl
theorem test_decode_subAImm : decode [0b10010100#8, 0b10000001#8] = .ok (.subAImm 0x81#8, []) := by rfl
theorem test_decode_subARn : decode [0b10011100#8] = .ok (.subARn 4, []) := by rfl
theorem test_decode_decA : decode [0b00010100#8] = .ok (.decA, []) := by rfl
theorem test_decode_decRn : decode [0b00011010#8] = .ok (.decRn 2, []) := by rfl
theorem test_decode_orlAImm : decode [0b01000100#8, 0b00001111#8] = .ok (.orlAImm 0x0F#8, []) := by rfl
theorem test_decode_orlARn : decode [0b01001011#8] = .ok (.orlARn 3, []) := by rfl
theorem test_decode_anlAImm : decode [0b01010100#8, 0b11110000#8] = .ok (.anlAImm 0xF0#8, []) := by rfl
theorem test_decode_anlARn : decode [0b01011111#8] = .ok (.anlARn 7, []) := by rfl
theorem test_decode_xrlAImm : decode [0b01100100#8, 0b10100101#8] = .ok (.xrlAImm 0xA5#8, []) := by rfl
theorem test_decode_xrlARn : decode [0b01101001#8] = .ok (.xrlARn 1, []) := by rfl
theorem test_decode_setb : decode [0b11010010#8, 0b10110010#8] = .ok (.setb 0xB2#8, []) := by rfl
theorem test_decode_halt : decode [0b11111111#8, 0x00#8] = .ok (.halt, [0x00#8]) := by rfl
/-- The MCS-51 code of `NOP`, `INC A` and `SJMP`: unsupported (R103). -/
theorem test_decode_refuses_neighbours : [0x00#8, 0x04#8, 0x80#8].map (fun op => decode [op]) =
    [.error (.unsupportedOpcode 0x00#8), .error (.unsupportedOpcode 0x04#8), .error (.unsupportedOpcode 0x80#8)] := by rfl
/-- Operand words of zeros: spec/opcode_table.json gives only the opcode byte bits. -/
theorem test_table_word_zero_operands : decodeTableWord 8 0x75 = some (.movDirectImm 0x00#8 0x00#8) := by rfl
theorem test_table_word_operands : decodeTableWord 24 0xAB1075 = some (.movDirectImm 0x10#8 0xAB#8) := by rfl
theorem test_step_runs_placed_word :
    seen (step (State.reset.withFetchWord 16 0x4274)) pcAPsw = some (0x0002#16, 0x42#8, 0x01#8) := by decide

/-! ### Parity and the ALU (S1; spec/43_arithmetic.md R184) -/

theorem test_parity : [0x00#8, 0xFF#8, 0x01#8, 0xA7#8].map parity = [true, true, false, false] := by decide
theorem test_alu_add_c0_bf : aluAdd 0xC0#8 0xBF#8 = ⟨0x7F#8, true, false, true⟩ := by decide
theorem test_alu_sub_a5_5a : aluSub 0xA5#8 0x5A#8 = ⟨0x4B#8, false, true, true⟩ := by decide

/-! ### One step, from the vectors -/

/-- U1. -/
theorem test_clrA : seen (step { begun [0xE4#8] with a := 0x5A#8, flags := { Flags.cleared with cy := true } }) pcAPsw =
    some (0x0001#16, 0x00#8, 0x81#8) := by decide
/-- U4. -/
theorem test_cplA : seen (step { begun [0xF4#8] with a := 0xA7#8, flags := { Flags.cleared with ov := true } }) pcAPsw =
    some (0x0001#16, 0x58#8, 0x04#8) := by decide
/-- U5: a stale `P` is written, not kept. -/
theorem test_cplA_stale : seen (step { begun [0xF4#8] with a := 0x01#8, flags := { Flags.cleared with p := true } }) pcAPsw =
    some (0x0001#16, 0xFE#8, 0x00#8) := by decide
/-- M1: an operand 0xFF is data. -/
theorem test_movAImm_ff : seen (step (begun [0x74#8, 0xFF#8])) (fun t => (pcAPsw t, t.status)) =
    some ((0x0002#16, 0xFF#8, 0x01#8), .running) := by decide
/-- M5. -/
theorem test_movARn : seen (step ({ begun [0xE8#8] with
    a := 0x99#8, flags := { Flags.cleared with cy := true, p := true } }.withCell 0 0x07#8)) pcAPsw =
    some (0x0001#16, 0x07#8, 0x80#8) := by decide
/-- F9: `MOV A,R7` on a data space of 7 bytes. -/
theorem test_movARn_bounds : seen (step (begunSized 4096 7 [0xEF#8])) (fun t => (pcStatus t, pcAPsw t)) =
    some ((0x0001#16, .faulted (.addressError .data 7 7)), (0x0001#16, 0x00#8, 0x00#8)) := by decide
/-- M6. -/
theorem test_movR0A : seen (step { begun [0xF8#8] with a := 0x81#8 }) (fun t => (pcAPsw t, t.data.get 0)) =
    some ((0x0001#16, 0x81#8, 0x00#8), 0x81#8) := by decide
/-- P1, at 0x0008. -/
theorem test_movR1A : seen (step { begun [0xF9#8] with a := 0xFE#8 }) (fun t => (t.data.get 0, t.data.get 1, t.psw)) =
    some (0x00#8, 0xFE#8, 0x00#8) := by decide
/-- The example of R154. -/
theorem test_movR2A : seen (step { begun [0xFA#8] with a := 0x9C#8 }) (fun t => (t.data.get 2, t.a, t.psw)) =
    some (0x9C#8, 0x9C#8, 0x00#8) := by decide
/-- R154. -/
theorem test_movR3A : seen (step { begun [0xFB#8] with a := 0x9C#8 }) (fun t => (t.data.get 3, t.psw)) =
    some (0x9C#8, 0x00#8) := by decide
/-- P2, at 0x0009. -/
theorem test_movR4A : seen (step { begun [0xFC#8] with a := 0x7D#8, flags := { Flags.cleared with p := true } })
    (fun t => (t.data.get 4, t.psw)) = some (0x7D#8, 0x01#8) := by decide
/-- R154. -/
theorem test_movR5A : seen (step { begun [0xFD#8] with a := 0x9C#8 }) (fun t => (t.data.get 5, t.psw)) =
    some (0x9C#8, 0x00#8) := by decide
/-- M7. -/
theorem test_movR6A : seen (step { begun [0xFE#8] with a := 0xFF#8, flags := { Flags.cleared with p := true } })
    (fun t => (t.data.get 6, t.psw)) = some (0xFF#8, 0x01#8) := by decide
/-- F12. -/
theorem test_movR6A_bounds : seen (step { begunSized 4096 4 [0xFE#8] with a := 0x09#8 }) pcStatus =
    some (0x0001#16, .faulted (.addressError .data 6 4)) := by decide
/-- M8: the destination is code space. -/
theorem test_movDirectImm : seen (step (begun [0x75#8, 0x10#8, 0xAB#8]))
    (fun t => (t.pc, t.code.get 0x10, t.data.get 0x10, t.psw)) = some (0x0003#16, 0xAB#8, 0x00#8, 0x00#8) := by decide
/-- F5: the failed write skips the flag. -/
theorem test_movDirectImm_bounds : seen (step (begunSized 16 128 [0x75#8, 0x10#8, 0x01#8])) (fun t => (pcStatus t, t.psw)) =
    some ((0x0003#16, .faulted (.addressError .code 0x10 16)), 0x00#8) := by decide
/-- M11: `P` follows the immediate, not `A`. -/
theorem test_movRnImm : seen (step { begun [0x7D#8, 0x80#8] with a := 0x03#8, flags := { Flags.cleared with p := true } })
    (fun t => (pcAPsw t, t.data.get 5)) = some ((0x0002#16, 0x03#8, 0x00#8), 0x80#8) := by decide
/-- F10. -/
theorem test_movRnImm_bounds : seen (step (begunSized 4096 7 [0x7F#8, 0x03#8])) (fun t => (pcStatus t, t.psw)) =
    some ((0x0002#16, .faulted (.addressError .data 7 7)), 0x00#8) := by decide
/-- A1. -/
theorem test_addAImm : seen (step { begun [0x24#8, 0x01#8] with a := 0x7F#8 }) pcAPsw =
    some (0x0002#16, 0x80#8, 0x44#8) := by decide
/-- A9: the incoming carry is not added. -/
theorem test_addAImm_no_carry_in : seen (step { begun [0x24#8, 0x00#8] with
    a := 0x07#8, flags := { Flags.cleared with cy := true, ac := true, ov := true, p := true } }) pcAPsw =
    some (0x0002#16, 0x07#8, 0x00#8) := by decide
/-- A10. -/
theorem test_addARn : seen (step ({ begun [0x29#8] with a := 0x80#8 }.withCell 1 0x80#8)) (fun t => (pcAPsw t, t.data.get 1)) =
    some ((0x0001#16, 0x00#8, 0x85#8), 0x80#8) := by decide
/-- F13, second step. -/
theorem test_addARn_bounds : seen (step { begunSized 4096 5 [0x2D#8] with a := 0x01#8 }) (fun t => (pcStatus t, t.a, t.psw)) =
    some ((0x0001#16, .faulted (.addressError .data 5 5)), 0x01#8, 0x00#8) := by decide
/-- A14. -/
theorem test_subAImm : seen (step { begun [0x94#8, 0xFF#8] with a := 0x7F#8 }) pcAPsw =
    some (0x0002#16, 0x80#8, 0x84#8) := by decide
/-- A20: the incoming carry is not subtracted. -/
theorem test_subAImm_no_borrow_in : seen (step { begun [0x94#8, 0x01#8] with
    a := 0x10#8, flags := { Flags.cleared with cy := true } }) pcAPsw = some (0x0002#16, 0x0F#8, 0x41#8) := by decide
/-- A27. -/
theorem test_subARn : seen (step ({ begun [0x9C#8] with a := 0x20#8 }.withCell 4 0x21#8)) pcAPsw =
    some (0x0001#16, 0xFF#8, 0xC1#8) := by decide
/-- A21. -/
theorem test_decA_wraps : seen (step (begun [0x14#8])) pcAPsw = some (0x0001#16, 0xFF#8, 0xC1#8) := by decide
/-- A23. -/
theorem test_decA_overflow : seen (step { begun [0x14#8] with a := 0x80#8 }) pcAPsw = some (0x0001#16, 0x7F#8, 0x44#8) := by decide
/-- A31: overflow uses the cell's sign, and `A` is left alone. -/
theorem test_decRn : seen (step ({ begun [0x1A#8] with a := 0x55#8 }.withCell 2 0x80#8)) (fun t => (pcAPsw t, t.data.get 2)) =
    some ((0x0001#16, 0x55#8, 0x44#8), 0x7F#8) := by decide
/-- F11. -/
theorem test_decRn_bounds : seen (step (begunSized 4096 0 [0x18#8])) (fun t => (pcStatus t, t.psw)) =
    some ((0x0001#16, .faulted (.addressError .data 0 0)), 0x00#8) := by decide
/-- L1. -/
theorem test_orlAImm : seen (step { begun [0x44#8, 0x0F#8] with
    a := 0xF0#8, flags := { Flags.cleared with cy := true, ac := true, ov := true } }) pcAPsw =
    some (0x0002#16, 0xFF#8, 0xC5#8) := by decide
/-- L3. -/
theorem test_orlARn : seen (step ({ begun [0x4B#8] with a := 0x10#8 }.withCell 3 0x01#8)) pcAPsw =
    some (0x0001#16, 0x11#8, 0x01#8) := by decide
/-- L4. -/
theorem test_anlAImm : seen (step { begun [0x54#8, 0x0F#8] with a := 0x3C#8, flags := { Flags.cleared with cy := true } }) pcAPsw =
    some (0x0002#16, 0x0C#8, 0x81#8) := by decide
/-- L6. -/
theorem test_anlARn : seen (step ({ begun [0x5F#8] with a := 0xFF#8, flags := { Flags.cleared with ov := true } }.withCell 7 0x81#8))
    pcAPsw = some (0x0001#16, 0x81#8, 0x05#8) := by decide
/-- L7. -/
theorem test_xrlAImm : seen (step { begun [0x64#8, 0xFF#8] with a := 0x55#8, flags := { Flags.cleared with ac := true } }) pcAPsw =
    some (0x0002#16, 0xAA#8, 0x41#8) := by decide
/-- The example of R206. -/
theorem test_xrlARn : seen (step ({ begun [0x6F#8] with a := 0x3C#8 }.withCell 7 0x3D#8)) pcAPsw =
    some (0x0001#16, 0x01#8, 0x00#8) := by decide
/-- B3: the other bits of the byte stay. -/
theorem test_setb_data_bit : seen (step ((begun [0xD2#8, 0x2B#8]).withCell 5 0x01#8)) (fun t => (t.pc, t.data.get 5, t.psw)) =
    some (0x0002#16, 0x09#8, 0x00#8) := by decide
/-- B6, B7, B8, B9, B10, B11: the registers and flags. -/
theorem test_setb_registers_and_flags :
    seen (exec (.setb 0xE0#8) { begun [] with a := 0x42#8, flags := { Flags.cleared with p := true } }) pcAPsw =
      some (0x0000#16, 0x43#8, 0x01#8) ∧
    seen (exec (.setb 0xF0#8) (begun [])) (fun t => (t.a, t.b, t.psw)) = some (0x00#8, 0x01#8, 0x00#8) ∧
    [0xD0#8, 0xB2#8, 0xB4#8, 0xB5#8].map (fun bit => seen (exec (.setb bit) (begun [])) State.psw) =
      [some 0x80#8, some 0x04#8, some 0x40#8, some 0x01#8] := by decide
/-- B17 to B20: the pins. -/
theorem test_setb_pins :
    [(0x80#8, (0 : Fin 4), (0 : Fin 8)), (0x87#8, 0, 7), (0x93#8, 1, 3), (0xA7#8, 2, 7)].map
      (fun x => seen (exec (.setb x.1) (begun [])) (fun t => (t.pin x.2.1 x.2.2, t.pins.toList.flatMap (fun port => port.toList.filter id)))) =
      [some (true, [true]), some (true, [true]), some (true, [true]), some (true, [true])] := by decide
/-- B12 to B16 and B21 to B25: the refusals. -/
theorem test_setb_refused :
    [0xB0#8, 0xB1#8, 0xB3#8, 0xB6#8, 0xB7#8].map (fun bit => seen (exec (.setb bit) (begun [])) (fun t => t.status)) =
      [some (.faulted (.unknownFlagBit 0x00B0#16)), some (.faulted (.unknownFlagBit 0x00B1#16)),
        some (.faulted (.unknownFlagBit 0x00B3#16)), some (.faulted (.unknownFlagBit 0x00B6#16)),
        some (.faulted (.unknownFlagBit 0x00B7#16))] ∧
    [0x88#8, 0x98#8, 0xA8#8, 0xB8#8, 0xC0#8, 0xD1#8, 0xD7#8, 0xE1#8, 0xE7#8, 0xF1#8, 0xFF#8].all (fun bit =>
      seen (exec (.setb bit) (begun [])) (fun t => t.status) == some (.faulted (.invalidBitAddress (BitVec.setWidth 16 bit)))) := by
  decide
/-- B30 to B33: the router on inputs no `SETB` reaches. -/
theorem test_router_above_one_byte :
    [0x2010#16, 0x2000#16, 0x2FFF#16, 0x1FFF#16, 0x3000#16, 0x01E0#16].map (fun addr => seen (bitRoute addr (begun [])) (fun t => t.status)) =
      [some (.faulted (.readOnlyMemory 0x2010#16)), some (.faulted (.readOnlyMemory 0x2000#16)),
        some (.faulted (.readOnlyMemory 0x2FFF#16)), some (.faulted (.invalidBitAddress 0x1FFF#16)),
        some (.faulted (.invalidBitAddress 0x3000#16)), some (.faulted (.invalidBitAddress 0x01E0#16))] := by decide
/-- Q1. -/
theorem test_halt : step (begun [0xFF#8]) = .next { begun [0xFF#8] with status := .halted } := by rfl
/-- Q9: no step from `HALTED`. -/
theorem test_halted_is_absorbing : step { begun [0xFF#8] with status := .halted } = .fault .runHalted := by rfl
/-- Q6, F1: zero-filled code space is no run of no-ops. -/
theorem test_reset_step : seen (step State.reset) pcStatus = some (0x0001#16, .faulted (.unsupportedOpcode 0x00#8)) := by decide
/-- Q7: no code space at all. -/
theorem test_no_code : seen (step (begunSized 0 128 [])) pcStatus = some (0x0000#16, .faulted (.addressError .code 0 0)) := by decide
/-- F3 and F4: an instruction cut short by the end of code space. -/
theorem test_straddling :
    seen (step (begunSized 1 128 [0x74#8])) pcStatus = some (0x0001#16, .faulted (.addressError .code 1 1)) ∧
    seen (step (begunSized 2 128 [0x75#8, 0x01#8])) pcStatus = some (0x0002#16, .faulted (.addressError .code 2 2)) := by decide
/-- Z2: CPU reset keeps memory and pins. -/
theorem test_cpu_reset : let s := ({ begun [0xFF#8] with a := 0x80#8, status := .halted }.withCell 0 0x80#8).setPin 0 0
    ((s.cpuReset.a, s.cpuReset.data.get 0, s.cpuReset.code.get 0, s.cpuReset.pin 0 0, s.cpuReset.status) =
      (0x00#8, 0x80#8, 0xFF#8, true, .running)) := by decide
/-- `L > CODE_SIZE` cannot be loaded (spec/10_state.md R45). -/
theorem test_load :
    (loadProgram State.reset [0x7B#8, 0x42#8]).toOption.map (fun t => (t.code.get 0, t.code.get 1, t.pc)) =
      some (0x7B#8, 0x42#8, 0x0000#16) ∧
    (loadProgram (State.powerOn 1 0) [0x7B#8, 0x42#8]).toOption = none := by decide
/-- Writing an unlisted cell's own byte removes the entry: equal memories are equal data. -/
theorem test_memory_canonical : ((Memory.powerOn 4).set 3 0x01#8).set 3 0x00#8 = Memory.powerOn 4 := by decide

/-! ### Witnesses: concrete inputs that meet the hypotheses of each obligation, at the ends of their ranges -/

/-- A legal state, for the obligations that assume `State.Inv`. -/
theorem witness_inv_reset : State.reset.Inv ∧ State.reset.status = .running :=
  ⟨⟨by decide, by decide, by decide, by decide⟩, rfl⟩
/-- The largest code space, with `PC` at its end. -/
theorem witness_inv_end_of_code : ({ State.powerOn 65535 0 with pc := 0xFFFF#16 } : State).Inv :=
  ⟨by decide, by decide, by decide, by decide⟩
theorem witness_ResetStateIsThePowerOnTable : 4095 < 4096 ∧ 127 < 128 := by decide
theorem witness_LoadPlacesTheProgramFromAddressZero :
    [0x74#8, 0x12#8].length ≤ (State.powerOn 2 0).code.length ∧ (State.powerOn 1 0).code.length < [0x74#8, 0x12#8].length := by decide
theorem witness_PackedFlagsBitByBit : State.reset.Untouched :=
  ⟨rfl, rfl, rfl, rfl, .inl rfl, by decide⟩
theorem witness_EveryAccessIsBoundsChecked :
    (State.powerOn 1 7).code.length ≤ 1 ∧ (State.powerOn 1 7).data.length ≤ 7 ∧
    0 < (State.powerOn 1 7).code.length ∧ 6 < (State.powerOn 1 7).data.length := by decide
theorem witness_ReadGivesTheLatestWriteAndSpacesAreIndependent :
    writeData State.reset 127 0xAB#8 = .ok (State.reset.withCell 127 0xAB#8) ∧
    writeCode State.reset 4095 0xAB#8 = .ok { State.reset with code := State.reset.code.set 4095 0xAB#8 } := ⟨rfl, rfl⟩
theorem witness_OpcodeRowsAreDisjointAndAgreeWithTheMap : (0xFE#8 : Byte) ≠ Config.haltByte := by decide
theorem witness_StepRunsTheDecodedInstruction : let s := begun [0x75#8, 0x10#8, 0xAB#8]
    s.status = .running ∧ s.code.length ≤ Config.maxCodeSize ∧
    (∀ (k : Nat) (h : k < [0x75#8, 0x10#8, 0xAB#8].length), readCode s (s.pc.toNat + k) = .ok [0x75#8, 0x10#8, 0xAB#8][k]) ∧
    decode [0x75#8, 0x10#8, 0xAB#8] = .ok (.movDirectImm 0x10#8 0xAB#8, []) := by
  refine ⟨rfl, by decide, ?_, rfl⟩
  intro k h
  match k, h with
  | 0, _ => rfl
  | 1, _ => rfl
  | 2, _ => rfl
theorem witness_StepIsDecodeThenExecute :
    (begunSized 2 128 [0xE4#8, 0x12#8]).Inv ∧
    decode (begunSized 2 128 [0xE4#8, 0x12#8]).codeFromPc = .ok (.clrA, [0x12#8]) ∧
    decode (begunSized 1 128 [0x00#8]).codeFromPc = .error (.unsupportedOpcode 0x00#8) ∧
    decode (begunSized 2 128 [0x75#8, 0x01#8]).codeFromPc = .error .endOfBytes :=
  ⟨⟨by decide, by decide, by decide, by decide⟩, rfl, rfl, rfl⟩
theorem witness_FetchReadsThenIncrements :
    (State.powerOn 1 0).pc.toNat < (State.powerOn 1 0).code.length ∧ (State.powerOn 0 0).code.length ≤ (State.powerOn 0 0).pc.toNat ∧
    ∃ t, exec .clrA State.reset = .next t := ⟨by decide, by decide, _, rfl⟩
theorem witness_HaltSentinelStopsBeforeExecuting :
    readCode (begun [0xFF#8]) (begun [0xFF#8]).pc.toNat = .ok 0xFF#8 ∧ (begun [0xFF#8]).status = .running ∧
    (State.powerOn 0 0).code.length ≤ (State.powerOn 0 0).pc.toNat ∧ (State.powerOn 0 0).status = .running ∧
    ({ State.reset with status := .halted } : State).status = .halted := ⟨rfl, rfl, by decide, rfl, rfl⟩
theorem witness_UnsupportedOpcodeRaises :
    State.reset.status = .running ∧ readCode State.reset State.reset.pc.toNat = .ok 0x00#8 ∧ opcodeLength 0x00#8 = none :=
  ⟨rfl, rfl, rfl⟩
theorem witness_RunningStepAdvancesThePc :
    (begun [0xE4#8]).Inv ∧ ∃ t, step (begun [0xE4#8]) = .next t ∧ t.status = .running :=
  ⟨⟨by decide, by decide, by decide, by decide⟩, _, rfl, rfl⟩
/-- `CODE_SIZE = 0`, where the bound is one step. -/
theorem witness_EveryRunEndsWithinCodeSizePlusOneSteps : (State.powerOn 0 0).Inv ∧ (State.powerOn 0 0).status = .running :=
  ⟨⟨by decide, by decide, by decide, by decide⟩, rfl⟩
/-- Both clauses of every statement about a register operand, where they meet: `DATA_SIZE = 7`, `R6` and `R7`. They are
MoveRegisterToAccumulatorResult, MoveAccumulatorToRegisterResult, MoveImmediateToRegisterResult, AddResult, SubtractResult,
DecrementResult, OrResult, AndResult and XorResult. -/
theorem witness_register_operand_clauses :
    (6 : Reg).val < (State.powerOn 1 7).data.length ∧ (State.powerOn 1 7).data.length ≤ (7 : Reg).val := by decide
theorem witness_MoveAccumulatorToRegisterResult : (Instr.movR0A, (0 : Reg)) ∈ movRnAForms ∧ (Instr.movR6A, (6 : Reg)) ∈ movRnAForms := by
  decide
theorem witness_MoveImmediateToCodeResult :
    (0xFF#8 : Byte).toNat < (State.powerOn 256 0).code.length ∧ (State.powerOn 255 0).code.length ≤ (0xFF#8 : Byte).toNat := by decide
theorem witness_CodeStoreIsSeenByTheNextFetch : let s := { begun [] with pc := 0x00FF#16 }
    (0xFF#8 : Byte).toNat < s.code.length ∧ s.status = .running ∧
    ∃ t, exec (.movDirectImm 0xFF#8 0xFF#8) s = .next t ∧ t.pc.toNat = (0xFF#8 : Byte).toNat := ⟨by decide, rfl, _, rfl, by decide⟩
/-- An overflow-free sum and difference, and pairs that overflow. -/
theorem witness_OverflowIsSignedOverflow :
    (aluAdd 0x40#8 0x3F#8).ov = false ∧ (aluSub 0x80#8 0x00#8).ov = false ∧ (aluAdd 0x40#8 0x40#8).ov = true ∧
    (aluSub 0x80#8 0x01#8).ov = true := by decide
theorem witness_SetbDataBit :
    (0x7F#8 : Byte).toNat < 0x80 ∧ (0x7F#8 : Byte).toNat / 8 < (State.powerOn 1 16).data.length ∧
    (State.powerOn 1 15).data.length ≤ (0x7F#8 : Byte).toNat / 8 := by decide
theorem witness_SetbBRegisterBit :
    (0xF1 ≤ (0xF1#8 : Byte).toNat ∧ (0xF1#8 : Byte).toNat ≤ 0xF7) ∧ (0xF1 ≤ (0xF7#8 : Byte).toNat ∧ (0xF7#8 : Byte).toNat ≤ 0xF7) ∧
    Instr.clrA ≠ .setb 0xF0#8 ∧ ∃ t, exec .clrA State.reset = .next t := ⟨by decide, by decide, by decide, _, rfl⟩
theorem witness_SetbCarry :
    (0xD1 ≤ (0xD1#8 : Byte).toNat ∧ (0xD1#8 : Byte).toNat ≤ 0xD7) ∧ (0xD1 ≤ (0xD7#8 : Byte).toNat ∧ (0xD7#8 : Byte).toNat ≤ 0xD7) := by decide
theorem witness_SetbFlagRange : (0xB0#8 : Byte) ∈ [0xB0#8, 0xB1#8, 0xB3#8, 0xB6#8, 0xB7#8] := by decide
theorem witness_SetbPin :
    ((0 : Fin 4).val < 3 ∧ (0x80#8 : Byte).toNat = 0x80 + 0x10 * (0 : Fin 4).val + (0 : Fin 8).val) ∧
    ((2 : Fin 4).val < 3 ∧ (0xA7#8 : Byte).toNat = 0x80 + 0x10 * (2 : Fin 4).val + (7 : Fin 8).val) := by decide
/-- Both ends of each of the eight ranges. -/
theorem witness_RouterRefusesEverythingElse :
    [0x88#16, 0x8F#16, 0x98#16, 0x9F#16, 0xA8#16, 0xAF#16, 0xB8#16, 0xCF#16, 0xD1#16, 0xDF#16, 0xE1#16, 0xEF#16, 0xF1#16, 0x1FFF#16,
      0x3000#16, 0xFFFF#16].all (fun addr =>
        (0x88 ≤ addr.toNat && addr.toNat ≤ 0x8F) || (0x98 ≤ addr.toNat && addr.toNat ≤ 0x9F) ||
        (0xA8 ≤ addr.toNat && addr.toNat ≤ 0xAF) || (0xB8 ≤ addr.toNat && addr.toNat ≤ 0xCF) ||
        (0xD1 ≤ addr.toNat && addr.toNat ≤ 0xDF) || (0xE1 ≤ addr.toNat && addr.toNat ≤ 0xEF) ||
        (0xF1 ≤ addr.toNat && addr.toNat ≤ 0x1FFF) || 0x3000 ≤ addr.toNat) = true := by decide
theorem witness_RouterRefusesCodeSpaceBits :
    (0x2000 ≤ (0x2000#16 : Addr).toNat ∧ (0x2000#16 : Addr).toNat ≤ 0x2FFF) ∧
    (0x2000 ≤ (0x2FFF#16 : Addr).toNat ∧ (0x2FFF#16 : Addr).toNat ≤ 0x2FFF) ∧
    State.reset.status = .running ∧ ∃ t, exec (.setb 0xFF#8) State.reset = .next t := ⟨by decide, by decide, rfl, _, rfl⟩
theorem witness_SetbIsIdempotentAndClearsNothing :
    State.reset.status = .running ∧ ∃ t, exec (.setb 0x7F#8) State.reset = .next t ∧ t.status = .running := ⟨rfl, _, rfl, rfl⟩
theorem witness_AccumulatorMoveAndLogicFrame :
    (Instr.orlARn 7).movesToAcc = true ∧ (∃ t, exec (.orlARn 7) State.reset = .next t ∧ t.status = State.reset.status) ∧
    ∃ t e, exec (.orlARn 7) (State.powerOn 1 7) = .next t ∧ t.status = .faulted e := ⟨rfl, ⟨_, rfl, rfl⟩, _, _, rfl, rfl⟩
theorem witness_AccumulatorArithmeticFrame :
    (Instr.subARn 7).arithOnAcc = true ∧ (∃ t, exec (.subARn 7) State.reset = .next t ∧ t.status = State.reset.status) ∧
    ∃ t e, exec (.subARn 7) (State.powerOn 1 7) = .next t ∧ t.status = .faulted e := ⟨rfl, ⟨_, rfl, rfl⟩, _, _, rfl, rfl⟩
theorem witness_RegisterStoreFrame :
    (Instr.movR6A, (6 : Reg)) ∈ movRnAForms ∧ (∃ t, exec .movR6A State.reset = .next t) ∧
    (∃ imm, Instr.movRnImm 7 0x03#8 = .movRnImm 7 imm) ∧ (∃ t, exec (.movRnImm 7 0x03#8) State.reset = .next t) ∧
    ∃ t, exec (.decRn 7) (State.powerOn 1 7) = .next t :=
  ⟨by decide, ⟨_, rfl⟩, ⟨_, rfl⟩, ⟨_, rfl⟩, _, rfl⟩
theorem witness_CodeStoreFrame :
    (∃ t, exec (.movDirectImm 0xFF#8 0x01#8) (State.powerOn 256 0) = .next t) ∧
    ∃ t, exec (.movDirectImm 0xFF#8 0x01#8) (State.powerOn 255 0) = .next t := ⟨⟨_, rfl⟩, _, rfl⟩
theorem witness_SetbAndHaltFrame :
    (∃ t, exec (.setb 0xB2#8) State.reset = .next t) ∧ ∃ t, exec .halt State.reset = .next t := ⟨⟨_, rfl⟩, _, rfl⟩
theorem witness_OnlyTheStoredCellChanges :
    (∃ t, exec (.setb 0x7F#8) State.reset = .next t) ∧ dataStore (.setb 0x7F#8) = some 15 ∧
    codeStore (.movDirectImm 0xFF#8 0x00#8) = some 255 := ⟨⟨_, rfl⟩, by decide, by decide⟩
theorem witness_OnlyTheNamedInstructionsWriteEachRegisterAndFlag :
    (∃ t, exec (.addAImm 0x80#8) { begun [] with a := 0x80#8 } = .next t ∧ t.a ≠ 0x80#8 ∧ t.flags.cy ≠ false ∧ t.flags.ov ≠ false ∧
      t.flags.p ≠ false) ∧
    (∃ t, exec .decA (begun []) = .next t ∧ t.flags.ac ≠ false) ∧
    ∃ t, exec (.setb 0xF0#8) (begun []) = .next t ∧ t.b ≠ 0x00#8 :=
  ⟨⟨_, rfl, by decide, by decide, by decide, by decide⟩, ⟨_, rfl, by decide⟩, _, rfl, by decide⟩
theorem witness_PinsOnlyRise :
    (∃ t, exec (.setb 0xA7#8) (begun []) = .next t ∧ t.pin 2 7 ≠ (begun []).pin 2 7) ∧
    ∃ t, step ((begun [0xE4#8]).setPin 0 0) = .next t ∧ ((begun [0xE4#8]).setPin 0 0).pin 0 0 = true :=
  ⟨⟨_, rfl, by decide⟩, _, rfl, by decide⟩
/-- Two different states that the statement relates. -/
theorem witness_FlagsAndPinsNeverSteerExecution : let s := begun [0x28#8]
    let s' := { (s.setPin 0 0) with b := 0x01#8, dptr := 0x1234#16, flags := { Flags.cleared with cy := true, rs0 := true } }
    s ≠ s' ∧ s.pc = s'.pc ∧ s.a = s'.a ∧ s.code = s'.code ∧ s.data = s'.data ∧ s.status = s'.status := by decide
theorem witness_FaultingStepChangesOnlyPcAndStatus :
    ∃ t e, step (begun [0xD2#8, 0xB0#8]) = .next t ∧ t.status = .faulted e := ⟨_, _, rfl, rfl⟩
/-- One faulting step for each of the five kinds. -/
theorem witness_StepErrorsAreThoseOfTheTable :
    (begunSized 1 128 [0x74#8]).Inv ∧
    (∃ t, step (begunSized 1 128 [0x74#8]) = .next t ∧ t.status = .faulted (.addressError .code 1 1)) ∧
    (∃ t, step (begunSized 1 128 [0x00#8]) = .next t ∧ t.status = .faulted (.unsupportedOpcode 0x00#8)) ∧
    (∃ t, step (begunSized 3 128 [0x75#8, 0x03#8, 0x01#8]) = .next t ∧ t.status = .faulted (.addressError .code 3 3)) ∧
    (∃ t, step (begunSized 3 15 [0xD2#8, 0x7F#8]) = .next t ∧ t.status = .faulted (.addressError .data 15 15)) ∧
    (∃ t, step (begunSized 3 15 [0xD2#8, 0xB7#8]) = .next t ∧ t.status = .faulted (.unknownFlagBit 0x00B7#16)) :=
  ⟨⟨by decide, by decide, by decide, by decide⟩, ⟨_, rfl, by decide⟩, ⟨_, rfl, by decide⟩, ⟨_, rfl, by decide⟩,
    ⟨_, rfl, by decide⟩, _, rfl, by decide⟩
theorem witness_StepKeepsTheLegalState : State.reset.Inv ∧ ∃ t, step State.reset = .next t := ⟨witness_inv_reset.1, _, rfl⟩
/-- `B` at its other value, and a step that goes on. -/
theorem witness_StepKeepsTheUntouchedState :
    ({ begun [0xF4#8] with b := 0x01#8 } : State).Untouched ∧ ∃ t, step { begun [0xF4#8] with b := 0x01#8 } = .next t :=
  ⟨⟨rfl, rfl, rfl, rfl, .inr rfl, by decide⟩, _, rfl⟩

end Sys2Proof.Machine
end

/-! ### Parity (spec/00_scope.md R16) -/

namespace Sys2Proof.Machine

/-- The model counts along the list of the bit numbers 0 to 7; this is that count as the size of a set of positions. -/
theorem popcount_eq_card (v : Byte) :
    popcount v = (Finset.univ.filter (fun i : Fin 8 => v.getLsbD i.val = true)).card := by
  unfold popcount
  rw [← List.map_coe_finRange_eq_range, List.countP_map, List.countP_eq_length_filter]
  exact congrArg List.length (List.filter_congr fun i _ => Bool.decide_eq_true.symm)

theorem parity_iff_even_popcount (v : Byte) : parity v = true ↔ Even (popcount v) := by
  rw [Nat.even_iff]
  exact beq_iff_eq

/-- Settles O4: the general clause from the two lemmas above, the three values by evaluation. -/
theorem parityIsTrueForAnEvenNumberOfOnes : Obligations.ParityIsTrueForAnEvenNumberOfOnes := by
  refine ⟨fun v => ?_, by decide, by decide, by decide⟩
  rw [← popcount_eq_card]
  exact parity_iff_even_popcount v

end Sys2Proof.Machine

/-! ### The access functions of the two spaces (spec/20_memory.md R62 to R65) -/

namespace Sys2Proof.Machine

/-- The store of the model is the one-cell replacement the obligations speak of. -/
theorem Memory.updated_set (m : Memory) (addr : Nat) (v : Byte) : m.Updated (m.set addr v) addr v :=
  ⟨m.set_length addr v, fun other => m.get_set addr other v⟩

/-- Settles O6: each clause is the access function's own rule on its side of the length. -/
theorem everyAccessIsBoundsChecked : Obligations.EveryAccessIsBoundsChecked := by
  intro s addr v
  refine ⟨fun le => ?codeRefused, fun le => ?dataRefused, fun lt => ?codeDone, fun lt => ?dataDone⟩
  case codeRefused => exact ⟨readCode_of_le le, writeCode_of_le v le⟩
  case dataRefused => exact ⟨readData_of_le le, writeData_of_le v le⟩
  case codeDone => exact ⟨readCode_of_lt lt, s.code.set addr v, writeCode_of_lt v lt, s.code.updated_set addr v⟩
  case dataDone => exact ⟨readData_of_lt lt, s.data.set addr v, writeData_of_lt v lt, s.data.updated_set addr v⟩

end Sys2Proof.Machine

/-! ### The ALU (spec/43_arithmetic.md R170, R171) -/

namespace Sys2Proof.Machine

/-- The rules' `v & 0xF` is the remainder the model computes. -/
theorem lowNibble_eq_toNat_and (v : Byte) : lowNibble v = (v &&& 0x0F#8).toNat :=
  (Nat.and_two_pow_sub_one_eq_mod v.toNat 4).symm

/-- The sign of a byte is its bit 7 (R172). -/
theorem msb_eq_getLsbD_seven (v : Byte) : v.msb = v.getLsbD 7 :=
  BitVec.msb_eq_getLsbD_last v

/-- The low 8 bits of the exact sum are its remainder modulo 256. -/
theorem aluAdd_r (x y : Byte) : (aluAdd x y).r = BitVec.ofNat 8 ((x.toNat + y.toNat) % 256) :=
  BitVec.eq_of_toNat_eq (Nat.mod_mod _ _).symm

/-- A sum of two bytes fits in 9 bits, so bit 8 is set exactly from 0x100 on. -/
theorem aluAdd_cy_iff (x y : Byte) : (aluAdd x y).cy = true ↔ 0x100 ≤ x.toNat + y.toNat := by
  have bit : (aluAdd x y).cy = decide ((x.toNat + y.toNat) / 256 % 2 = 1) := Nat.testBit_eq_decide_div_mod_eq
  rw [bit, decide_eq_true_iff]
  have ltX : x.toNat < 256 := x.isLt
  have ltY : y.toNat < 256 := y.isLt
  omega

theorem aluAdd_ac_iff (x y : Byte) :
    (aluAdd x y).ac = true ↔ 0x10 ≤ (x &&& 0x0F#8).toNat + (y &&& 0x0F#8).toNat := by
  rw [← lowNibble_eq_toNat_and, ← lowNibble_eq_toNat_and]
  exact decide_eq_true_iff

theorem aluAdd_ov_iff (x y : Byte) :
    (aluAdd x y).ov = true ↔ x.getLsbD 7 = y.getLsbD 7 ∧ (aluAdd x y).r.getLsbD 7 ≠ x.getLsbD 7 := by
  have signs : (aluAdd x y).ov = (x.msb == y.msb && (aluAdd x y).r.msb != x.msb) := rfl
  rw [signs, Bool.and_eq_true, beq_iff_eq, bne_iff_ne]
  simp only [msb_eq_getLsbD_seven]

/-- Settles O28: one law of `aluAdd` per field. -/
theorem aluAddOutcome : Obligations.AluAddOutcome :=
  fun x y => ⟨aluAdd_r x y, aluAdd_cy_iff x y, aluAdd_ac_iff x y, aluAdd_ov_iff x y⟩

/-- The truncated difference in exact integers: a negative difference comes out 256 higher. -/
theorem aluSub_r_toNat (x y : Byte) : ((aluSub x y).r.toNat : Int) = ((x.toNat : Int) - y.toNat) % 256 :=
  calc ((aluSub x y).r.toNat : Int)
      = ((((x.toNat : Int) - y.toNat) % 256).toNat : Int) := congrArg Int.ofNat (BitVec.toNat_ofInt _)
    _ = ((x.toNat : Int) - y.toNat) % 256 := Int.toNat_of_nonneg (Int.emod_nonneg _ (by decide))

theorem aluSub_cy_iff (x y : Byte) : (aluSub x y).cy = true ↔ x.toNat < y.toNat :=
  decide_eq_true_iff

theorem aluSub_ac_iff (x y : Byte) :
    (aluSub x y).ac = true ↔ (x &&& 0x0F#8).toNat < (y &&& 0x0F#8).toNat := by
  rw [← lowNibble_eq_toNat_and, ← lowNibble_eq_toNat_and]
  exact decide_eq_true_iff

theorem aluSub_ov_iff (x y : Byte) :
    (aluSub x y).ov = true ↔ x.getLsbD 7 ≠ y.getLsbD 7 ∧ (aluSub x y).r.getLsbD 7 ≠ x.getLsbD 7 := by
  have signs : (aluSub x y).ov = (x.msb != y.msb && (aluSub x y).r.msb != x.msb) := rfl
  rw [signs, Bool.and_eq_true, bne_iff_ne, bne_iff_ne]
  simp only [msb_eq_getLsbD_seven]

/-- Settles O29: one law of `aluSub` per field. -/
theorem aluSubOutcome : Obligations.AluSubOutcome :=
  fun x y => ⟨aluSub_r_toNat x y, aluSub_cy_iff x y, aluSub_ac_iff x y, aluSub_ov_iff x y⟩

end Sys2Proof.Machine

/-! ### What an operation can answer: one rule per shared operation -/

namespace Sys2Proof.Machine

/-- Every next state that a result answers satisfies `P`. -/
def Answers (P : State → Prop) (r : Result) : Prop :=
  ∀ t, r = .next t → P t

section Answers

variable {P : State → Prop} {s : State}

theorem answers_next {t : State} (h : P t) : Answers P (.next t) := by
  rintro _ ⟨⟩
  exact h

/-- Reading `R[n]`: the rule asks for `P` after the bounds error and for what follows with the cell's byte. -/
theorem answers_withRegister {n : Reg} {k : Byte → Result}
    (fails : s.data.length ≤ regAddress n → P (raise (.addressError .data (regAddress n) s.data.length) s))
    (goes : regAddress n < s.data.length → Answers P (k (s.data.get (regAddress n)))) :
    Answers P (withRegister n s k) := by
  obtain ⟨lt, e⟩ | ⟨le, e⟩ := withRegister_cases n s k
  · exact e ▸ goes lt
  · exact e ▸ answers_next (fails le)

/-- Writing `R[n]`: the rule asks for `P` after the bounds error and for what follows the replaced cell. -/
theorem answers_storeRegister {n : Reg} {v : Byte} {k : State → Result}
    (fails : s.data.length ≤ regAddress n → P (raise (.addressError .data (regAddress n) s.data.length) s))
    (goes : regAddress n < s.data.length → Answers P (k (s.setData (s.data.set (regAddress n) v)))) :
    Answers P (storeRegister n v s k) := by
  obtain ⟨lt, e⟩ | ⟨le, e⟩ := storeRegister_cases n v s k
  · exact e ▸ goes lt
  · exact e ▸ answers_next (fails le)

/-- Writing the direct code cell: the rule asks for `P` after the bounds error and for what follows the replaced cell. -/
theorem answers_storeDirect {direct v : Byte} {k : State → Result}
    (fails : s.code.length ≤ directAddress direct →
      P (raise (.addressError .code (directAddress direct) s.code.length) s))
    (goes : directAddress direct < s.code.length →
      Answers P (k (s.setCode (s.code.set (directAddress direct) v)))) :
    Answers P (storeDirect direct v s k) := by
  obtain ⟨lt, e⟩ | ⟨le, e⟩ := storeDirect_cases direct v s k
  · exact e ▸ goes lt
  · exact e ▸ answers_next (fails le)

/-- Setting a data bit: the rule asks for `P` after the bounds error and after the replaced cell. -/
theorem answers_setTarget_dataBit {i : Nat} {k : Fin 8}
    (fails : s.data.length ≤ i → P (raise (.addressError .data i s.data.length) s))
    (goes : i < s.data.length → P (s.setData (s.data.set i (orBit (s.data.get i) k)))) :
    Answers P (setTarget (.dataBit i k) s) := by
  obtain ⟨lt, e⟩ | ⟨le, e⟩ := setTarget_dataBit_cases i k s
  · exact e ▸ answers_next (goes lt)
  · exact e ▸ answers_next (fails le)

end Answers

end Sys2Proof.Machine

/-! ### The bit router's selection (spec/45_setb_bit_router.md R222 to R231) -/

namespace Sys2Proof.Machine

theorem zext16_toNat (bit : Byte) : (zext16 bit).toNat = bit.toNat :=
  directAddress_eq bit

/-- A one-byte router input, written as the payload of a refusal writes it (decision D19). -/
theorem zext16_eq_ofNat (bit : Byte) : zext16 bit = BitVec.ofNat 16 bit.toNat := by
  rw [← zext16_toNat, BitVec.ofNat_toNat, BitVec.setWidth_eq]

/-- The mask `addr & 7` is the remainder modulo 8. -/
theorem bitPosition_val (addr : Addr) : (bitPosition addr).val = addr.toNat % 8 := by
  have mask : (addr &&& 7#16).toNat = addr.toNat % 8 := Nat.and_two_pow_sub_one_eq_mod addr.toNat 3
  simp [bitPosition, mask]

/-- Shifting 1 left by the bit's position gives the power of two that R224's bit stands for. -/
theorem orBit_eq (v : Byte) (k : Fin 8) : orBit v k = v ||| BitVec.ofNat 8 (2 ^ k.val) := by
  have shifted : 1#8 <<< k.val = BitVec.ofNat 8 (2 ^ k.val) := by
    apply BitVec.eq_of_toNat_eq
    simp [Nat.one_shiftLeft]
  rw [orBit, shifted]

/-- The router inputs that no rule claims (R231). -/
def UnclaimedAddr (addr : Addr) : Prop :=
  (0x88 ≤ addr.toNat ∧ addr.toNat ≤ 0x8F) ∨ (0x98 ≤ addr.toNat ∧ addr.toNat ≤ 0x9F) ∨
    (0xA8 ≤ addr.toNat ∧ addr.toNat ≤ 0xAF) ∨ (0xB8 ≤ addr.toNat ∧ addr.toNat ≤ 0xCF) ∨
    (0xD1 ≤ addr.toNat ∧ addr.toNat ≤ 0xDF) ∨ (0xE1 ≤ addr.toNat ∧ addr.toNat ≤ 0xEF) ∨
    (0xF1 ≤ addr.toNat ∧ addr.toNat ≤ 0x1FFF) ∨ 0x3000 ≤ addr.toNat

theorem routeBit_of_lt {addr : Addr} (h : addr.toNat < 0x80) :
    routeBit addr = .ok (.dataBit (addr.toNat / 8) (bitPosition addr)) := by
  have below : addr ≤ 0x007F#16 := by bv_omega
  have index : (addr >>> 3).toNat = addr.toNat / 8 := by
    rw [BitVec.toNat_ushiftRight, Nat.shiftRight_eq_div_pow]
  rw [routeBit, if_pos below, index]

theorem routeBit_of_code {addr : Addr} (ge : 0x2000 ≤ addr.toNat) (le : addr.toNat ≤ 0x2FFF) :
    routeBit addr = .error (.readOnlyMemory addr) := by
  rw [routeBit, if_neg (by bv_omega), if_pos (by bv_omega)]

theorem routeBit_of_unclaimed {addr : Addr} (h : UnclaimedAddr addr) :
    routeBit addr = .error (.invalidBitAddress addr) := by
  unfold UnclaimedAddr at h
  simp only [routeBit, BitVec.le_def, ← BitVec.toNat_inj, BitVec.toNat_ofNat]
  simp (disch := omega) only [if_neg]

/-- Only 0xF0 selects a bit of `B` (R227): every other branch of the router selects something else or refuses. -/
theorem eq_of_routeBit_bRegBit {addr : Addr} {k : Fin 8} (h : routeBit addr = .ok (.bRegBit k)) :
    addr = 0x00F0#16 := by
  by_contra ne
  unfold routeBit routeFlag at h
  rw [if_neg ne] at h
  split_ifs at h <;> cases h

/-- Only the code-space range is refused as read-only (R225): every other branch of the router selects or refuses otherwise. -/
theorem le_of_routeBit_readOnlyMemory {addr payload : Addr} (h : routeBit addr = .error (.readOnlyMemory payload)) :
    0x2000 ≤ addr.toNat := by
  by_contra lt
  have notCode : ¬(0x2000#16 ≤ addr ∧ addr ≤ 0x2FFF#16) := by bv_omega
  unfold routeBit routeFlag at h
  rw [if_neg notCode] at h
  split_ifs at h <;> cases h

/-! ### What the router and `SETB` answer -/

theorem exec_setb (bit : Byte) (s : State) : exec (.setb bit) s = bitRoute (zext16 bit) s := rfl

theorem bitRoute_of_ok {addr : Addr} {x : BitTarget} (s : State) (h : routeBit addr = .ok x) :
    bitRoute addr s = setTarget x s := by
  simp only [bitRoute, h]

theorem bitRoute_of_error {addr : Addr} {e : ErrorValue} (s : State) (h : routeBit addr = .error e) :
    bitRoute addr s = .next { s with status := .faulted e } := by
  simp only [bitRoute, h]
  rfl

/-- The router: the rule asks for `P` after a refusal and for what the selected target answers. -/
theorem answers_bitRoute {P : State → Prop} {s : State} {addr : Addr}
    (refuses : ∀ e, routeBit addr = .error e → P { s with status := .faulted e })
    (selects : ∀ x, routeBit addr = .ok x → Answers P (setTarget x s)) : Answers P (bitRoute addr s) := by
  cases h : routeBit addr with
  | error e => exact bitRoute_of_error s h ▸ answers_next (refuses e h)
  | ok x => exact bitRoute_of_ok s h ▸ selects x h

/-- Setting a target keeps the status, or raises the bounds error of a data bit. -/
theorem setTarget_status (x : BitTarget) (s : State) :
    Answers (fun t => t.status = s.status ∨ ∃ i, t.status = .faulted (.addressError .data i s.data.length))
      (setTarget x s) := by
  cases x with
  | dataBit i k => exact answers_setTarget_dataBit (fun _ => .inr ⟨i, rfl⟩) (fun _ => .inl rfl)
  | accBit | bRegBit | carry | overflow | auxCarry | parityFlag | pin => exact answers_next (.inl rfl)

/-- Setting a target that is no bit of `B` keeps `B`. -/
theorem setTarget_b {x : BitTarget} (s : State) (ne : ∀ k, x ≠ .bRegBit k) :
    Answers (fun t => t.b = s.b) (setTarget x s) := by
  cases x with
  | dataBit i k => exact answers_setTarget_dataBit (fun _ => rfl) (fun _ => rfl)
  | bRegBit k => exact absurd rfl (ne k)
  | accBit | carry | overflow | auxCarry | parityFlag | pin => exact answers_next rfl

/-- Beside the bit of `B` and the carry, the other seven addresses of their rows are unclaimed and refused (R227, R228). -/
theorem exec_setb_beside_b_or_carry {bit : Byte} (s : State)
    (h : (0xF1 ≤ bit.toNat ∧ bit.toNat ≤ 0xF7) ∨ (0xD1 ≤ bit.toNat ∧ bit.toNat ≤ 0xD7)) :
    exec (.setb bit) s = .next { s with status := .faulted (.invalidBitAddress (BitVec.ofNat 16 bit.toNat)) } := by
  have unclaimed : UnclaimedAddr (zext16 bit) := by
    rw [UnclaimedAddr, zext16_toNat]
    omega
  rw [← zext16_eq_ofNat]
  exact bitRoute_of_error s (routeBit_of_unclaimed unclaimed)

/-- Settles O37: the operand selects bit `bit mod 8` of byte `bit / 8`, whose bounds check has the two outcomes. -/
theorem setbDataBit : Obligations.SetbDataBit := by
  intro bit s below
  have selected : exec (.setb bit) s = setTarget (.dataBit (bit.toNat / 8) (bitPosition (zext16 bit))) s := by
    rw [← zext16_toNat] at below ⊢
    exact bitRoute_of_ok s (routeBit_of_lt below)
  rw [selected]
  obtain ⟨lt, done⟩ | ⟨le, refused⟩ :=
    setTarget_dataBit_cases (bit.toNat / 8) (bitPosition (zext16 bit)) s
  · refine ⟨fun _ => ⟨_, done, ?_⟩, fun le => absurd lt (Nat.not_lt.2 le)⟩
    rw [orBit_eq, bitPosition_val, zext16_toNat]
    exact s.data.updated_set _ _
  · exact ⟨fun lt => absurd lt (Nat.not_lt.2 le), fun _ => refused⟩

/-- Settles O43: on 16 bits by the router's refusal, and through `SETB` since the zero-extension gives the input back. -/
theorem routerRefusesEverythingElse : Obligations.RouterRefusesEverythingElse := by
  intro addr s unclaimed
  have refused := bitRoute_of_error s (routeBit_of_unclaimed unclaimed)
  refine ⟨refused, fun oneByte => ?_⟩
  have extended : zext16 (BitVec.ofNat 8 addr.toNat) = addr := by
    apply BitVec.eq_of_toNat_eq
    rw [zext16_toNat, BitVec.toNat_ofNat]
    exact Nat.mod_eq_of_lt oneByte
  rw [exec_setb, extended]
  exact refused

/-- Settles O44: the range is refused whatever the state holds, and a one-byte operand is below it. -/
theorem routerRefusesCodeSpaceBits : Obligations.RouterRefusesCodeSpaceBits := by
  refine ⟨fun addr s ge le => bitRoute_of_error s (routeBit_of_code ge le), ?_⟩
  intro bit s t addr running answer
  suffices never : Answers (fun u => u.status ≠ .faulted (.readOnlyMemory addr)) (exec (.setb bit) s) from
    never t answer
  refine answers_bitRoute (fun e refused => ?_) (fun x _ u set => ?_)
  · rintro ⟨⟩
    have ge := le_of_routeBit_readOnlyMemory refused
    rw [zext16_toNat] at ge
    omega
  · obtain kept | ⟨i, raised⟩ := setTarget_status x s u set
    · simp [kept, running]
    · simp [raised]

/-- Settles O40: 0xD0 selects the carry, and the addresses beside it are refused. -/
theorem setbCarry : Obligations.SetbCarry := by
  refine ⟨fun s => ?_, fun bit s ge le => exec_setb_beside_b_or_carry s (.inr ⟨ge, le⟩)⟩
  have selected : routeBit (zext16 0xD0#8) = .ok .carry := rfl
  exact bitRoute_of_ok s selected

/-! ### Who writes `B` (spec/10_state.md R23) -/

/-- No instruction but `SETB` writes `B`. -/
theorem exec_b_of_ne_setb {i : Instr} (s : State) (ne : ∀ bit, i ≠ .setb bit) :
    Answers (fun t => t.b = s.b) (exec i s) := by
  cases i with
  | clrA | cplA | movAImm | addAImm | subAImm | decA | orlAImm | anlAImm | xrlAImm | halt => exact answers_next rfl
  | movARn | addARn | subARn | orlARn | anlARn | xrlARn =>
    exact answers_withRegister (fun _ => rfl) (fun _ => answers_next rfl)
  | movR0A | movR1A | movR2A | movR3A | movR4A | movR5A | movR6A | movRnImm =>
    exact answers_storeRegister (fun _ => rfl) (fun _ => answers_next rfl)
  | movDirectImm => exact answers_storeDirect (fun _ => rfl) (fun _ => answers_next rfl)
  | decRn =>
    exact answers_withRegister (fun _ => rfl) (fun _ => answers_storeRegister (fun _ => rfl) (fun _ => answers_next rfl))
  | setb bit => exact absurd rfl (ne bit)

/-- `SETB` of any address but 0xF0 keeps `B`. -/
theorem exec_setb_b_of_ne {bit : Byte} (s : State) (ne : bit ≠ 0xF0#8) :
    Answers (fun t => t.b = s.b) (exec (.setb bit) s) := by
  refine answers_bitRoute (fun _ _ => rfl) (fun x selected => setTarget_b s ?_)
  rintro k rfl
  have isB : (zext16 bit).toNat = 0xF0 := congrArg BitVec.toNat (eq_of_routeBit_bRegBit selected)
  rw [zext16_toNat] at isB
  exact ne (BitVec.eq_of_toNat_eq isB)

/-- Settles O39: 0xF0 selects bit 0 of `B`, the addresses beside it are refused, and no other instruction writes `B`. -/
theorem setbBRegisterBit : Obligations.SetbBRegisterBit := by
  refine ⟨fun s => ?_, fun bit s ge le => exec_setb_beside_b_or_carry s (.inl ⟨ge, le⟩), fun i s t answer ne => ?_⟩
  · have selected : routeBit (zext16 0xF0#8) = .ok (.bRegBit 0) := rfl
    exact bitRoute_of_ok s selected
  · by_cases setb : ∃ bit, i = .setb bit
    · obtain ⟨bit, rfl⟩ := setb
      exact exec_setb_b_of_ne s (fun isB => ne (isB ▸ rfl)) t answer
    · exact exec_b_of_ne_setb s (not_exists.1 setb) t answer

end Sys2Proof.Machine

/-! ### The decoder inverts the encoder (spec/30_encoding.md R91 to R105) -/

namespace Sys2Proof

/-- The opcode byte `op` begins exactly the encodings of the instructions the form can become. -/
def OpForm.EncodedFrom (op : Byte) : OpForm → Prop
  | .ready i => encode i = [op]
  | .one mk => ∀ x, encode (mk x) = [op, x]
  | .two mk => ∀ x y, encode (mk x y) = [op, x, y]

@[simp] theorem OpForm.encodedFrom_ready {op : Byte} {i : Instr} : (OpForm.ready i).EncodedFrom op ↔ encode i = [op] :=
  Iff.rfl

@[simp] theorem OpForm.encodedFrom_one {op : Byte} {mk : Byte → Instr} :
    (OpForm.one mk).EncodedFrom op ↔ ∀ x, encode (mk x) = [op, x] :=
  Iff.rfl

@[simp] theorem OpForm.encodedFrom_two {op : Byte} {mk : Byte → Byte → Instr} :
    (OpForm.two mk).EncodedFrom op ↔ ∀ x y, encode (mk x y) = [op, x, y] :=
  Iff.rfl

/-- Every byte the row claims begins the encodings of the form the row selects. -/
def OpRow.Faithful (r : OpRow) : Prop :=
  ∀ op, r.claims op = true → (r.form (regField op)).EncodedFrom op

/-- An exact row claims the one byte it is made of. -/
theorem exactRow_faithful {base : Byte} {form : OpForm} (encoded : form.EncodedFrom base) :
    (exactRow base form).Faithful := by
  intro op claims
  have masked : op &&& BitVec.allOnes 8 = base := beq_iff_eq.1 claims
  rw [BitVec.and_allOnes] at masked
  exact masked ▸ encoded

/-- A byte is its upper five bits with its register number (R92). -/
theorem withReg_regField : ∀ op : Byte, withReg (op &&& 0xF8#8) (regField op) = op := by
  decide

/-- A register row claims only its base with the register number that the decoder then reads off. -/
theorem regRow_faithful {base : Byte} {form : Reg → OpForm} (encoded : ∀ n, (form n).EncodedFrom (withReg base n)) :
    (regRow base form).Faithful := by
  intro op claims
  have masked : op &&& 0xF8#8 = base := beq_iff_eq.1 claims
  have whole := withReg_regField op
  rw [masked] at whole
  have fromBase := encoded (regField op)
  rwa [whole] at fromBase

/-- The table and `encode` hold the same byte values (R98). -/
theorem opcodeTable_faithful : ∀ r ∈ opcodeTable, r.Faithful := by
  simp [opcodeTable, unaryRows, movRnARows, movRows, arithRows, logicRows, setbRows, exactRow_faithful, regRow_faithful,
    encode]

theorem encodedFrom_of_decodeOpcode {op : Byte} {form : OpForm} (h : decodeOpcode op = some form) :
    form.EncodedFrom op := by
  obtain ⟨r, found, rfl⟩ := Option.map_eq_some_iff.1 h
  have claims : r.claims op = true := by simpa using List.find?_some found
  exact opcodeTable_faithful r (List.mem_of_find?_eq_some found) op claims

/-- The operand bytes a form takes off a list are those its instruction is encoded with. -/
theorem encode_append_of_complete {op : Byte} {form : OpForm} {bytes rest : List Byte} {i : Instr}
    (encoded : form.EncodedFrom op) (h : form.complete nextByte bytes = .ok (i, rest)) :
    encode i ++ rest = op :: bytes := by
  match form, bytes, h with
  | .ready _, _, rfl => rw [encoded]; rfl
  | .one _, x :: _, rfl => rw [encoded x]; rfl
  | .two _, x :: y :: _, rfl => rw [encoded x y]; rfl

/-- The table does not hold the halt sentinel (R100). -/
theorem decodeOpcode_haltByte : decodeOpcode Config.haltByte = none := rfl

theorem decode_haltByte (bytes : List Byte) : decode (Config.haltByte :: bytes) = .ok (.halt, bytes) := rfl

theorem ne_haltByte_of_decodeOpcode {op : Byte} {form : OpForm} (h : decodeOpcode op = some form) :
    op ≠ Config.haltByte := by
  rintro rfl
  cases decodeOpcode_haltByte.symm.trans h

/-- A byte that is not the halt sentinel decodes by its form. -/
theorem decode_cons {op : Byte} {form : OpForm} {bytes rest : List Byte} {i : Instr} (found : decodeOpcode op = some form)
    (completed : form.complete nextByte bytes = .ok (i, rest)) : decode (op :: bytes) = .ok (i, rest) := by
  simp [decode, ne_haltByte_of_decodeOpcode found, found, completed]

/-- An operand that is cut short ends the list decoder with its error. -/
theorem decode_cons_of_error {op : Byte} {form : OpForm} {bytes rest : List Byte} {e : DecodeError}
    (found : decodeOpcode op = some form) (cut : form.complete nextByte bytes = .error (e, rest)) :
    decode (op :: bytes) = .error e := by
  simp [decode, ne_haltByte_of_decodeOpcode found, found, cut]

theorem decode_cons_of_eq_none {op : Byte} (bytes : List Byte) (ne : op ≠ Config.haltByte)
    (none : decodeOpcode op = none) : decode (op :: bytes) = .error (.unsupportedOpcode op) := by
  simp [decode, ne, none]

/-- Settles O10: each instruction's opcode byte selects its form, and the form takes back its operand bytes. -/
theorem decodeOfEncodeIsTheInstruction : Obligations.DecodeOfEncodeIsTheInstruction := by
  intro i rest
  cases i with
  | clrA | cplA | decA | movR0A | movR1A | movR2A | movR3A | movR4A | movR5A | movR6A => exact decode_cons rfl rfl
  | movAImm | addAImm | subAImm | orlAImm | anlAImm | xrlAImm | setb | movDirectImm => exact decode_cons rfl rfl
  | movARn n => exact decode_cons (decodeOpcode_movARn n) rfl
  | movRnImm n imm => exact decode_cons (decodeOpcode_movRnImm n) rfl
  | addARn n => exact decode_cons (decodeOpcode_addARn n) rfl
  | subARn n => exact decode_cons (decodeOpcode_subARn n) rfl
  | decRn n => exact decode_cons (decodeOpcode_decRn n) rfl
  | orlARn n => exact decode_cons (decodeOpcode_orlARn n) rfl
  | anlARn n => exact decode_cons (decodeOpcode_anlARn n) rfl
  | xrlARn n => exact decode_cons (decodeOpcode_xrlARn n) rfl
  | halt => rfl

/-- Whatever decodes begins with the encoding of what it decodes to. -/
theorem encode_append_of_decode {bytes rest : List Byte} {i : Instr} (h : decode bytes = .ok (i, rest)) :
    encode i ++ rest = bytes := by
  cases bytes with
  | nil => cases h
  | cons op operands =>
    rw [decode] at h
    split at h
    · next isHalt => cases h; exact congrArg (List.cons · rest) isHalt.symm
    · split at h
      · cases h
      · next form found =>
        split at h
        · next r completed => cases h; exact encode_append_of_complete (encodedFrom_of_decodeOpcode found) completed
        · cases h

/-- The decoder is the inverse of the encoder on whole lists of bytes. -/
theorem decode_eq_ok_iff {bytes rest : List Byte} {i : Instr} : decode bytes = .ok (i, rest) ↔ bytes = encode i ++ rest :=
  ⟨fun h => (encode_append_of_decode h).symm, fun h => h ▸ decodeOfEncodeIsTheInstruction i rest⟩

/-- Settles O8: the words are evaluated one by one. -/
theorem writtenOutWordsDecode : Obligations.WrittenOutWordsDecode :=
  ⟨rfl, rfl, rfl, rfl, rfl, rfl, rfl, rfl, rfl, rfl, rfl, rfl, rfl, rfl⟩

/-! ### The law of encodings (R90, R99, R100) -/

/-- The law of encodings, which is stated constructor by constructor, for every instruction. -/
theorem encoding_statement (i : Instr) : Laws.Encoding.Statement i := by
  cases i with
  | clrA => exact Laws.Encoding.clrA
  | cplA => exact Laws.Encoding.cplA
  | movAImm imm => exact Laws.Encoding.movAImm imm
  | movARn n => exact Laws.Encoding.movARn n
  | movR0A => exact Laws.Encoding.movR0A
  | movR1A => exact Laws.Encoding.movR1A
  | movR2A => exact Laws.Encoding.movR2A
  | movR3A => exact Laws.Encoding.movR3A
  | movR4A => exact Laws.Encoding.movR4A
  | movR5A => exact Laws.Encoding.movR5A
  | movR6A => exact Laws.Encoding.movR6A
  | movDirectImm direct imm => exact Laws.Encoding.movDirectImm direct imm
  | movRnImm n imm => exact Laws.Encoding.movRnImm n imm
  | addAImm imm => exact Laws.Encoding.addAImm imm
  | addARn n => exact Laws.Encoding.addARn n
  | subAImm imm => exact Laws.Encoding.subAImm imm
  | subARn n => exact Laws.Encoding.subARn n
  | decA => exact Laws.Encoding.decA
  | decRn n => exact Laws.Encoding.decRn n
  | orlAImm imm => exact Laws.Encoding.orlAImm imm
  | orlARn n => exact Laws.Encoding.orlARn n
  | anlAImm imm => exact Laws.Encoding.anlAImm imm
  | anlARn n => exact Laws.Encoding.anlARn n
  | xrlAImm imm => exact Laws.Encoding.xrlAImm imm
  | xrlARn n => exact Laws.Encoding.xrlARn n
  | setb bit => exact Laws.Encoding.setb bit
  | halt => exact Laws.Encoding.halt

@[simp] theorem encode_length (i : Instr) : (encode i).length = i.length :=
  (encoding_statement i).1

theorem bytesWellFormed_encode (i : Instr) : bytesWellFormed (encode i) = true :=
  (encoding_statement i).2.1

theorem consumed_of_ne_halt {i : Instr} (ne : i ≠ .halt) : i.consumed = i.length := by
  cases i with
  | halt => exact absurd rfl ne
  | _ => rfl

/-! ### The opcode rows against the opcode map (R97, R99) -/

/-- The length of the form a byte selects is the one the map gives. -/
theorem opcodeLength_of_ne_haltByte : ∀ op : Byte, op ≠ Config.haltByte →
    (decodeOpcode op).map (fun form => form.operandCount + 1) = opcodeLength op := by
  decide

/-- Settles O9: checks of the 256 bytes. -/
theorem opcodeRowsAreDisjointAndAgreeWithTheMap : Obligations.OpcodeRowsAreDisjointAndAgreeWithTheMap :=
  ⟨by decide, by decide +kernel, decodeOpcode_haltByte, opcodeLength_of_ne_haltByte⟩

/-- An opcode byte outside the map selects no row, and is not the halt sentinel. -/
theorem of_opcodeLength_eq_none {op : Byte} (h : opcodeLength op = none) :
    op ≠ Config.haltByte ∧ decodeOpcode op = none := by
  have ne : op ≠ Config.haltByte := by
    rintro rfl
    cases h
  exact ⟨ne, Option.map_eq_none_iff.1 ((opcodeLength_of_ne_haltByte op ne).trans h)⟩

/-- As many bytes as the form needs complete it, with nothing left over. -/
theorem exists_complete_of_length {form : OpForm} {bytes : List Byte} (h : bytes.length = form.operandCount) :
    ∃ i, form.complete nextByte bytes = .ok (i, []) := by
  match form, bytes, h with
  | .ready i, [], _ => exact ⟨i, rfl⟩
  | .one mk, [x], _ => exact ⟨mk x, rfl⟩
  | .two mk, [x, y], _ => exact ⟨mk x y, rfl⟩

/-- Bytes that pass the check decode, with nothing left over. -/
theorem exists_decode_of_bytesWellFormed {bytes : List Byte} (h : bytesWellFormed bytes = true) :
    ∃ i, decode bytes = .ok (i, []) := by
  cases bytes with
  | nil => cases h
  | cons op operands =>
    have length : opcodeLength op = some (operands.length + 1) := beq_iff_eq.1 h
    by_cases isHalt : op = Config.haltByte
    · subst isHalt
      cases operands with
      | nil => exact ⟨.halt, rfl⟩
      | cons => cases length
    · rw [← opcodeLength_of_ne_haltByte op isHalt] at length
      obtain ⟨form, found, count⟩ := Option.map_eq_some_iff.1 length
      obtain ⟨i, completed⟩ := exists_complete_of_length (Nat.succ.inj count).symm
      exact ⟨i, decode_cons found completed⟩

/-- Settles O11: what passes the check decodes, and what decodes is an encoding, which passes the check. -/
theorem wellFormedBytesAreExactlyTheEncodings : Obligations.WellFormedBytesAreExactlyTheEncodings := by
  intro bytes
  constructor
  · intro wellFormed
    obtain ⟨i, decoded⟩ := exists_decode_of_bytesWellFormed wellFormed
    exact ⟨i, decoded, by simpa using (decode_eq_ok_iff.1 decoded).symm⟩
  · rintro ⟨i, -, rfl⟩
    exact bytesWellFormed_encode i

end Sys2Proof

/-! ### Two sources of bytes that go in step -/

namespace Sys2Proof

/-- Two answers agree: both give the same value and related sources, or both are refused with related errors. -/
inductive Matched {α σ τ ε δ : Type} (R : σ → τ → Prop) (E : ε → δ → Prop) :
    Except ε (α × σ) → Except δ (α × τ) → Prop
  | ok (a : α) {s : σ} {t : τ} : R s t → Matched R E (.ok (a, s)) (.ok (a, t))
  | error {e : ε} {d : δ} : E e d → Matched R E (.error e) (.error d)

/-- Where two sources go in step byte by byte, they complete a form in step. -/
theorem OpForm.complete_matched {σ τ ε δ : Type} {next : σ → Except ε (Byte × σ)} {next' : τ → Except δ (Byte × τ)}
    {R : σ → τ → Prop} {E : ε × σ → δ × τ → Prop}
    (inStep : ∀ s t, R s t → Matched R (fun e d => E (e, s) (d, t)) (next s) (next' t))
    (form : OpForm) {s : σ} {t : τ} (start : R s t) : Matched R E (form.complete next s) (form.complete next' t) := by
  cases form with
  | ready i => exact .ok i start
  | one mk =>
    simp only [OpForm.complete]
    match next s, next' t, inStep s t start with
    | _, _, .ok x _ => exact .ok (mk x) ‹_›
    | _, _, .error refused => exact .error refused
  | two mk =>
    simp only [OpForm.complete]
    match next s, next' t, inStep s t start with
    | _, _, .error refused => exact .error refused
    | _, _, .ok x (s := s1) (t := t1) after =>
      dsimp only
      match next s1, next' t1, inStep s1 t1 after with
      | _, _, .ok y _ => exact .ok (mk x y) ‹_›
      | _, _, .error refused => exact .error refused

end Sys2Proof

/-! ### Fetching one instruction (spec/40_sequencer.md R120 to R127) -/

namespace Sys2Proof.Machine

theorem fetch_of_readCode {s : State} {v : Byte} (h : readCode s s.pc.toNat = .ok v) :
    fetch s = .ok (v, s.setPc (s.pc + 1#16)) := by
  simp only [fetch, h]

/-! The outcomes of `fetchInstr`, one rule each. -/

theorem fetchInstr_of_le {s : State} (h : s.code.length ≤ s.pc.toNat) :
    fetchInstr s = .error (.addressError .code s.pc.toNat s.code.length, s) := by
  simp [fetchInstr, readCode_of_le h]

theorem fetchInstr_of_haltByte {s : State} (h : readCode s s.pc.toNat = .ok Config.haltByte) :
    fetchInstr s = .ok (.halt, s) := by
  simp [fetchInstr, h]

theorem fetchInstr_of_decodeOpcode_eq_none {s : State} {op : Byte} (h : readCode s s.pc.toNat = .ok op)
    (ne : op ≠ Config.haltByte) (none : decodeOpcode op = none) :
    fetchInstr s = .error (.unsupportedOpcode op, s.setPc (s.pc + 1#16)) := by
  simp [fetchInstr, fetch, h, ne, none]

theorem fetchInstr_of_decodeOpcode_eq_some {s : State} {op : Byte} {form : OpForm} (h : readCode s s.pc.toNat = .ok op)
    (found : decodeOpcode op = some form) : fetchInstr s = form.complete fetch (s.setPc (s.pc + 1#16)) := by
  simp [fetchInstr, fetch, h, ne_haltByte_of_decodeOpcode found, found]

/-! Fetching depends on `PC` and code space alone, and moves `PC` alone. -/

/-- The states are `s` and `s'` with one and the same `PC`. -/
def MovedAlike (s s' t t' : State) : Prop :=
  ∃ pc, t = s.setPc pc ∧ t' = s'.setPc pc

/-- Two fetches in states with the same code go in step. -/
theorem fetch_matched {s s' : State} (code : s.code = s'.code) (t t' : State) (alike : MovedAlike s s' t t') :
    Matched (MovedAlike s s') (fun e d => e = d ∧ MovedAlike s s' t t') (fetch t) (fetch t') := by
  obtain ⟨pc, rfl, rfl⟩ := alike
  rcases Nat.lt_or_ge pc.toNat s.code.length with lt | le
  · rw [fetch_of_lt lt, fetch_of_lt (code ▸ lt)]
    simp only [State.setPc_code, State.setPc_pc, ← code]
    exact .ok _ ⟨pc + 1#16, rfl, rfl⟩
  · rw [fetch_of_le le, fetch_of_le (code ▸ le)]
    simp only [State.setPc_code, State.setPc_pc, ← code]
    exact .error ⟨rfl, pc, rfl, rfl⟩

/-- Two states with the same `PC` and code fetch the same instruction, or raise the same error. -/
theorem fetchInstr_matched {s s' : State} (pc : s.pc = s'.pc) (code : s.code = s'.code) :
    Matched (MovedAlike s s') (fun x y => x.1 = y.1 ∧ MovedAlike s s' x.2 y.2) (fetchInstr s) (fetchInstr s') := by
  have start : MovedAlike s s' s s' := ⟨s.pc, rfl, by rw [pc]; rfl⟩
  have moved : MovedAlike s s' (s.setPc (s.pc + 1#16)) (s'.setPc (s'.pc + 1#16)) := ⟨_, rfl, by rw [pc]⟩
  rcases Nat.lt_or_ge s.pc.toNat s.code.length with lt | le
  · have read : readCode s s.pc.toNat = .ok (s.code.get s.pc.toNat) := readCode_of_lt lt
    have read' : readCode s' s'.pc.toNat = .ok (s.code.get s.pc.toNat) := by rw [readCode, ← code, ← pc]; exact read
    generalize s.code.get s.pc.toNat = op at read read'
    by_cases isHalt : op = Config.haltByte
    · subst isHalt
      rw [fetchInstr_of_haltByte read, fetchInstr_of_haltByte read']
      exact .ok _ start
    · cases found : decodeOpcode op with
      | none =>
        rw [fetchInstr_of_decodeOpcode_eq_none read isHalt found, fetchInstr_of_decodeOpcode_eq_none read' isHalt found]
        exact .error ⟨rfl, moved⟩
      | some form =>
        rw [fetchInstr_of_decodeOpcode_eq_some read found, fetchInstr_of_decodeOpcode_eq_some read' found]
        exact form.complete_matched (fetch_matched code) moved
  · rw [fetchInstr_of_le le, fetchInstr_of_le (by rwa [← code, ← pc]), code, pc]
    exact .error ⟨rfl, start⟩

/-! ### The code bytes from `PC` on -/

@[simp] theorem codeFromPc_length (s : State) : s.codeFromPc.length = s.code.length - s.pc.toNat := by
  simp [State.codeFromPc]

theorem codeFromPc_of_le {s : State} (h : s.code.length ≤ s.pc.toNat) : s.codeFromPc = [] :=
  List.eq_nil_of_length_eq_zero (by simp [h])

theorem codeFromPc_of_lt {s : State} (size : s.code.length ≤ Config.maxCodeSize) (h : s.pc.toNat < s.code.length) :
    s.codeFromPc = s.code.get s.pc.toNat :: (s.setPc (s.pc + 1#16)).codeFromPc := by
  have count : s.code.length - s.pc.toNat = (s.code.length - (s.pc.toNat + 1)) + 1 := by omega
  rw [State.codeFromPc, State.codeFromPc, count, List.range_succ_eq_map]
  simp [pc_add_one_toNat size h, Nat.add_assoc, Nat.add_comm 1]

/-- The bytes from `PC` on are those that `readCode` gives. -/
theorem readCode_of_codeFromPc {s : State} {k : Nat} {v : Byte} (h : s.codeFromPc[k]? = some v) :
    readCode s (s.pc.toNat + k) = .ok v := by
  obtain ⟨lt, rfl⟩ := List.getElem?_eq_some_iff.1 h
  rw [codeFromPc_length] at lt
  simp [State.codeFromPc, readCode_of_lt (show s.pc.toNat + k < s.code.length by omega)]

/-- Bytes that `readCode` gives from `PC` on begin the code bytes from `PC` on. -/
theorem codeFromPc_eq_append {s : State} {bytes : List Byte}
    (h : ∀ (k : Nat) (lt : k < bytes.length), readCode s (s.pc.toNat + k) = .ok bytes[k]) :
    ∃ more, s.codeFromPc = bytes ++ more := by
  suffices prefixed : bytes <+: s.codeFromPc from prefixed.imp fun _ e => e.symm
  refine List.prefix_iff_getElem?.2 fun k lt => ?_
  obtain ⟨inCode, value⟩ := readCode_eq_ok.1 (h k lt)
  rw [← value, List.getElem?_eq_getElem (by rw [codeFromPc_length]; omega)]
  simp [State.codeFromPc]

/-! ### Fetching refines the list decoder -/

/-- The list of bytes is what code space still holds from `t.pc` on, in a state that differs from `s` in `PC` alone. -/
structure ReadsFrom (s : State) (bytes : List Byte) (t : State) : Prop where
  moved : t = s.setPc t.pc
  bound : t.pc.toNat ≤ s.code.length
  bytes : bytes = t.codeFromPc

/-- Running out of bytes: the list decoder's end is an address error at `CODE_SIZE` (R126). -/
def OutOfBytes (s : State) (x : DecodeError × List Byte) (y : ErrorValue × State) : Prop :=
  x.1 = .endOfBytes ∧
    y = (.addressError .code s.code.length s.code.length, s.setPc (BitVec.ofNat 16 s.code.length))

theorem nextByte_fetch_matched {s : State} (size : s.code.length ≤ Config.maxCodeSize) (bytes : List Byte) (t : State)
    (reads : ReadsFrom s bytes t) :
    Matched (ReadsFrom s) (fun e d => OutOfBytes s (e, bytes) (d, t)) (nextByte bytes) (fetch t) := by
  obtain ⟨moved, bound, rfl⟩ := reads
  have code : t.code = s.code := by rw [moved]; rfl
  rw [← code] at size bound
  rcases Nat.lt_or_ge t.pc.toNat t.code.length with lt | le
  · rw [codeFromPc_of_lt size lt, fetch_of_lt lt]
    refine .ok _ ⟨?_, ?_, rfl⟩
    · rw [moved]; rfl
    · rw [State.setPc_pc, pc_add_one_toNat size lt, ← code]; exact lt
  · have atEnd : t.pc.toNat = s.code.length := by rw [← code]; omega
    rw [codeFromPc_of_le le, fetch_of_le le]
    refine .error ⟨rfl, ?_⟩
    rw [code, ← atEnd, BitVec.ofNat_toNat, BitVec.setWidth_eq, ← moved]

/-- What the machine's fetching answers where the list decoder answers `r` on the code bytes from `PC` on. -/
def State.fetched (s : State) (r : Except DecodeError (Instr × List Byte)) :
    Except (ErrorValue × State) (Instr × State) :=
  match r with
  | .ok (i, _) => .ok (i, s.setPc (s.pc + BitVec.ofNat 16 i.consumed))
  | .error (.unsupportedOpcode op) => .error (.unsupportedOpcode op, s.setPc (s.pc + 1#16))
  | .error .endOfBytes =>
    .error (.addressError .code s.code.length s.code.length, s.setPc (BitVec.ofNat 16 s.code.length))

/-- Where code space still holds the bytes after an instruction, `PC` is past the bytes it consumes. -/
theorem pc_eq_add_consumed {s t : State} {i : Instr} (size : s.code.length ≤ Config.maxCodeSize) (code : t.code = s.code)
    (start : s.pc.toNat ≤ s.code.length) (bound : t.pc.toNat ≤ s.code.length) (notHalt : i ≠ .halt)
    (bytes : s.codeFromPc = encode i ++ t.codeFromPc) : t.pc = s.pc + BitVec.ofNat 16 i.consumed := by
  have lengths := congrArg List.length bytes
  rw [List.length_append, encode_length, codeFromPc_length, codeFromPc_length, code, ← consumed_of_ne_halt notHalt]
    at lengths
  simp only [Config.maxCodeSize] at size
  apply BitVec.eq_of_toNat_eq
  rw [BitVec.toNat_add, BitVec.toNat_ofNat]
  omega

/-- An instruction with operand bytes: its form completes alike from the list and from the machine's own fetches. -/
theorem complete_fetch_eq_fetched {s : State} {op : Byte} {form : OpForm} (size : s.code.length ≤ Config.maxCodeSize)
    (lt : s.pc.toNat < s.code.length) (value : s.code.get s.pc.toNat = op) (found : decodeOpcode op = some form) :
    form.complete fetch (s.setPc (s.pc + 1#16)) = s.fetched (decode s.codeFromPc) := by
  have front := codeFromPc_of_lt size lt
  rw [value] at front
  have next := pc_add_one_toNat size lt
  have start : ReadsFrom s (s.setPc (s.pc + 1#16)).codeFromPc (s.setPc (s.pc + 1#16)) :=
    ⟨rfl, by rw [State.setPc_pc, next]; exact lt, rfl⟩
  have inStep := form.complete_matched (nextByte_fetch_matched size) start
  generalize fromList : form.complete nextByte (s.setPc (s.pc + 1#16)).codeFromPc = x at inStep
  generalize fromCode : form.complete fetch (s.setPc (s.pc + 1#16)) = y at inStep
  cases inStep with
  | error out =>
    obtain ⟨ended, rfl⟩ := out
    rw [front, decode_cons_of_error found fromList, ended]
    rfl
  | @ok i rest t reads =>
    obtain ⟨moved, bound, rfl⟩ := reads
    have decoded : decode s.codeFromPc = .ok (i, t.codeFromPc) := front ▸ decode_cons found fromList
    have whole := decode_eq_ok_iff.1 decoded
    have notHalt : i ≠ .halt := by
      rintro rfl
      exact ne_haltByte_of_decodeOpcode found (List.cons.inj (front.symm.trans whole)).1
    have pc := pc_eq_add_consumed size (show t.code = s.code by rw [moved]; rfl) lt.le bound notHalt whole
    rw [decoded, State.fetched, ← pc, ← moved]

/-- The machine's byte-by-byte fetching is the list decoder on the code bytes from `PC` on. -/
theorem fetchInstr_eq_fetched {s : State} (size : s.code.length ≤ Config.maxCodeSize)
    (bound : s.pc.toNat ≤ s.code.length) : fetchInstr s = s.fetched (decode s.codeFromPc) := by
  rcases Nat.lt_or_ge s.pc.toNat s.code.length with lt | le
  · have front := codeFromPc_of_lt size lt
    have read := readCode_of_lt lt
    by_cases isHalt : s.code.get s.pc.toNat = Config.haltByte
    · rw [isHalt] at front read
      have unmoved : s.setPc (s.pc + BitVec.ofNat 16 Instr.halt.consumed) = s := by
        rw [show BitVec.ofNat 16 Instr.halt.consumed = 0#16 from rfl, BitVec.add_zero]; rfl
      rw [fetchInstr_of_haltByte read, front, decode_haltByte, State.fetched, unmoved]
    · cases found : decodeOpcode (s.code.get s.pc.toNat) with
      | none =>
        rw [fetchInstr_of_decodeOpcode_eq_none read isHalt found, front, decode_cons_of_eq_none _ isHalt found]
        rfl
      | some form =>
        rw [fetchInstr_of_decodeOpcode_eq_some read found]
        exact complete_fetch_eq_fetched size lt rfl found
  · have atEnd : s.pc = BitVec.ofNat 16 s.code.length := by
      rw [← Nat.le_antisymm bound le, BitVec.ofNat_toNat, BitVec.setWidth_eq]
    rw [fetchInstr_of_le le, codeFromPc_of_le le, decode, State.fetched, ← atEnd, Nat.le_antisymm bound le]
    rfl

/-! ### One step -/

theorem step_of_fetchInstr_ok {s t : State} {i : Instr} (running : s.status = .running)
    (fetched : fetchInstr s = .ok (i, t)) : step s = exec i t := by
  simp only [step, running, fetched]

theorem step_of_fetchInstr_error {s t : State} {e : ErrorValue} (running : s.status = .running)
    (fetched : fetchInstr s = .error (e, t)) : step s = .next (raise e t) := by
  simp only [step, running, fetched]

/-- Settles O13: the step is that of the fetching, which is the list decoder's answer case by case. -/
theorem stepIsDecodeThenExecute : Obligations.StepIsDecodeThenExecute := by
  intro s inv running
  have fetched := fetchInstr_eq_fetched inv.codeSize inv.pcBound
  refine ⟨fun i rest decoded => ?_, fun op unsupported => ?_, fun ended => ?_⟩
  · rw [decoded] at fetched
    exact step_of_fetchInstr_ok running fetched
  · rw [unsupported] at fetched
    exact step_of_fetchInstr_error running fetched
  · rw [ended] at fetched
    exact step_of_fetchInstr_error running fetched

/-- Settles O12: the bytes begin the code bytes from `PC` on, which therefore decode to the same instruction. -/
theorem stepRunsTheDecodedInstruction : Obligations.StepRunsTheDecodedInstruction := by
  intro s bytes rest i running size reads decoded
  obtain ⟨more, front⟩ := codeFromPc_eq_append reads
  have nonempty : 0 < bytes.length := by
    cases bytes with
    | nil => cases decoded
    | cons => exact Nat.succ_pos _
  have inCode := (readCode_eq_ok.1 (reads 0 nonempty)).1
  have fetched := fetchInstr_eq_fetched size (Nat.le_of_lt inCode)
  rw [front, decode_eq_ok_iff.1 decoded, List.append_assoc, decodeOfEncodeIsTheInstruction i (rest ++ more)] at fetched
  exact step_of_fetchInstr_ok running fetched

/-- Settles O16: the byte selects no row and is not the halt sentinel, so the fetching ends after it. -/
theorem unsupportedOpcodeRaises : Obligations.UnsupportedOpcodeRaises := by
  intro s op running read noLength
  obtain ⟨ne, none⟩ := of_opcodeLength_eq_none noLength
  exact step_of_fetchInstr_error running (fetchInstr_of_decodeOpcode_eq_none read ne none)

theorem exec_halt (s : State) : exec .halt s = .next { s with status := .halted } := rfl

theorem step_ne_next_of_halted {s : State} (h : s.status = .halted) (t : State) : step s ≠ .next t := by
  simp [step_of_halted h]

/-- The halt sentinel at `PC` ends the run and changes nothing else (R121). -/
theorem step_of_readCode_haltByte {s : State} (running : s.status = .running)
    (read : readCode s s.pc.toNat = .ok Config.haltByte) : step s = .next { s with status := .halted } :=
  step_of_fetchInstr_ok running (fetchInstr_of_haltByte read)

/-- Settles O15: the halt test's own outcomes, and `HALTED` absorbing. -/
theorem haltSentinelStopsBeforeExecuting : Obligations.HaltSentinelStopsBeforeExecuting :=
  ⟨fun _ running read => step_of_readCode_haltByte running read,
    fun _ running le => step_of_fetchInstr_error running (fetchInstr_of_le le), exec_halt,
    fun _ halted => step_ne_next_of_halted halted⟩

end Sys2Proof.Machine

/-! ### Reads after writes (spec/20_memory.md R60, R69, R76) -/

namespace Sys2Proof.Machine

theorem Memory.read_set_same {m : Memory} {addr : Nat} (space : Space) (v : Byte) (lt : addr < m.length) :
    (m.set addr v).read space addr = .ok v :=
  Memory.read_eq_ok.2 ⟨lt, m.get_set_same addr v⟩

/-- Every other address of the array reads as before, in bounds or not. -/
theorem Memory.read_set_other (m : Memory) {addr other : Nat} (space : Space) (v : Byte) (ne : other ≠ addr) :
    (m.set addr v).read space other = m.read space other := by
  rw [Memory.read, Memory.read, Memory.set_length, Memory.get_set_other m v ne]

/-- A successful write to data space replaced one cell within bounds. -/
theorem writeData_eq_ok {s t : State} {addr : Nat} {v : Byte} (h : writeData s addr v = .ok t) :
    addr < s.data.length ∧ t = s.setData (s.data.set addr v) := by
  rcases Nat.lt_or_ge addr s.data.length with lt | le
  · exact ⟨lt, (Except.ok.inj ((writeData_of_lt v lt).symm.trans h)).symm⟩
  · cases (writeData_of_le v le).symm.trans h

/-- A successful write to code space replaced one cell within bounds. -/
theorem writeCode_eq_ok {s t : State} {addr : Nat} {v : Byte} (h : writeCode s addr v = .ok t) :
    addr < s.code.length ∧ t = s.setCode (s.code.set addr v) := by
  rcases Nat.lt_or_ge addr s.code.length with lt | le
  · exact ⟨lt, (Except.ok.inj ((writeCode_of_lt v lt).symm.trans h)).symm⟩
  · cases (writeCode_of_le v le).symm.trans h

/-- Settles O7: a write replaces one cell of one array. -/
theorem readGivesTheLatestWriteAndSpacesAreIndependent : Obligations.ReadGivesTheLatestWriteAndSpacesAreIndependent := by
  refine fun s t addr v => ⟨fun written => ?_, fun written => ?_⟩
  · obtain ⟨lt, rfl⟩ := writeData_eq_ok written
    exact ⟨Memory.read_set_same .data v lt, fun _ ne => s.data.read_set_other .data v ne, fun _ => rfl⟩
  · obtain ⟨lt, rfl⟩ := writeCode_eq_ok written
    exact ⟨Memory.read_set_same .code v lt, fun _ ne => s.code.read_set_other .code v ne, fun _ => rfl⟩

/-! ### Loading a program (spec/10_state.md R45) -/

/-- Cells outside the placed range keep their bytes. -/
theorem Memory.get_place_of_outside (m : Memory) {first addr : Nat} {bytes : List Byte}
    (outside : addr < first ∨ first + bytes.length ≤ addr) : (m.place first bytes).get addr = m.get addr := by
  induction bytes generalizing m first with
  | nil => rfl
  | cons x rest ih =>
    rw [List.length_cons] at outside
    rw [Memory.place, ih _ (by omega)]
    split
    · exact m.get_set_other x (by omega)
    · rfl

/-- Each placed byte stands at its address. -/
theorem Memory.get_place_of_inside (m : Memory) {first : Nat} {bytes : List Byte} {i : Nat} (inside : i < bytes.length)
    (fits : first + i < m.length) : (m.place first bytes).get (first + i) = bytes[i] := by
  induction bytes generalizing m first i with
  | nil => cases inside
  | cons x rest ih =>
    cases i with
    | zero =>
      rw [Nat.add_zero] at fits ⊢
      rw [Memory.place, if_pos fits, Memory.get_place_of_outside _ (.inl (Nat.lt_succ_self first))]
      exact m.get_set_same first x
    | succ i =>
      rw [Memory.place, show first + (i + 1) = first + 1 + i by omega]
      refine ih _ (Nat.lt_of_succ_lt_succ inside) ?_
      split
      · rw [Memory.set_length]; omega
      · omega

/-- The loader's writes place bytes that fit. -/
theorem loadBytes_of_fits (s : State) {first : Nat} {bytes : List Byte} (fits : first + bytes.length ≤ s.code.length) :
    loadBytes s first bytes = .ok (s.setCode (s.code.place first bytes)) := by
  induction bytes generalizing s first with
  | nil => rfl
  | cons x rest ih =>
    rw [List.length_cons] at fits
    have lt : first < s.code.length := by omega
    rw [loadBytes, writeCode_of_lt x lt, Memory.place, if_pos lt]
    exact ih (s.setCode (s.code.set first x)) (by simp only [State.setCode_code, Memory.set_length]; omega)

/-- The loader's writes stop at the first address past the end of code space. -/
theorem loadBytes_of_too_long (s : State) {first : Nat} {bytes : List Byte} (start : first ≤ s.code.length)
    (long : s.code.length < first + bytes.length) :
    loadBytes s first bytes = .error (.addressError .code s.code.length s.code.length) := by
  induction bytes generalizing s first with
  | nil => exact absurd long (Nat.not_lt.2 start)
  | cons x rest ih =>
    rw [List.length_cons] at long
    rw [loadBytes]
    rcases Nat.lt_or_ge first s.code.length with lt | le
    · rw [writeCode_of_lt x lt]
      exact ih (s.setCode (s.code.set first x)) lt (by simp only [State.setCode_code, Memory.set_length]; omega)
    · rw [writeCode_of_le x le, Nat.le_antisymm start le]

/-- Settles O3: the loader at address 0, on either side of the length. -/
theorem loadPlacesTheProgramFromAddressZero : Obligations.LoadPlacesTheProgramFromAddressZero := by
  refine fun s program => ⟨fun fits => ?_, fun long => ?_⟩
  · refine ⟨s.code.place 0 program, loadBytes_of_fits s (by omega), Memory.place_length .., fun i h => ?_,
      fun i h => ?_⟩
    · simpa using s.code.get_place_of_inside (first := 0) h (by omega)
    · exact s.code.get_place_of_outside (.inr (by omega))
  · exact loadBytes_of_too_long s (Nat.zero_le _) (by omega)

/-! ### Reset and the packed flags (spec/10_state.md R34, R52 to R54) -/

/-- Settles O1: memory that nothing has written reads zero within its length, every pin is low, the rest is evaluation. -/
theorem resetStateIsThePowerOnTable : Obligations.ResetStateIsThePowerOnTable := by
  refine ⟨rfl, rfl, rfl, rfl, rfl, rfl, rfl, rfl, rfl, fun addr lt => ?_, fun addr lt => ?_, Pins.powerOn_low⟩
  · exact readCode_of_lt lt
  · exact readData_of_lt lt

theorem packed_cleared : Flags.cleared.packed = 0x00#8 := rfl

/-- Settles O2: the fields of the reset state. -/
theorem cpuResetZeroesProcessorStateOnly : Obligations.CpuResetZeroesProcessorStateOnly :=
  fun _ => ⟨rfl, rfl, rfl, rfl, packed_cleared, rfl, rfl, rfl, fun _ _ => rfl⟩

/-- The packed byte as a sum of the flags' weights: all 128 combinations. -/
theorem packed_toNat (f : Flags) : f.packed.toNat =
    128 * f.cy.toNat + 64 * f.ac.toNat + 32 * f.f0.toNat + 16 * f.rs1.toNat + 8 * f.rs0.toNat + 4 * f.ov.toNat
      + f.p.toNat := by
  obtain ⟨cy, ac, f0, rs1, rs0, ov, p⟩ := f
  revert cy ac f0 rs1 rs0 ov p
  decide

/-- With `F0`, `RS1` and `RS0` clear, bits 5, 4, 3 and 1 of the packed byte are 0. -/
theorem packed_and_of_clear {f : Flags} (f0 : f.f0 = false) (rs1 : f.rs1 = false) (rs0 : f.rs0 = false) :
    f.packed &&& 0x3A#8 = 0x00#8 := by
  obtain ⟨cy, ac, _, _, _, ov, p⟩ := f
  subst f0 rs1 rs0
  revert cy ac ov p
  decide

/-- Settles O5: the packed byte's weights and clear bits. -/
theorem packedFlagsBitByBit : Obligations.PackedFlagsBitByBit :=
  ⟨packed_toNat, fun _ => rfl, fun _ untouched => packed_and_of_clear untouched.f0 untouched.rs1 untouched.rs0⟩

/-- Settles O58: empty arrays are canonical, and every pin is low. -/
theorem resetStateMeetsTheInvariants : Obligations.ResetStateMeetsTheInvariants :=
  ⟨⟨by decide, Nat.zero_le _, Memory.powerOn_wf _, Memory.powerOn_wf _⟩,
    ⟨rfl, rfl, rfl, rfl, .inl rfl, Pins.powerOn_low 3⟩⟩

end Sys2Proof.Machine

/-! ### Results of the instructions that read or store one operand -/

namespace Sys2Proof.Machine

section Operands

variable {n : Reg} {s : State}

theorem withRegister_of_lt {k : Byte → Result} (lt : n.val < s.data.length) :
    withRegister n s k = k (s.data.get n.val) := by
  obtain ⟨_, e⟩ | ⟨le, _⟩ := withRegister_cases n s k
  · exact e
  · exact absurd lt (Nat.not_lt.2 le)

theorem withRegister_of_le {k : Byte → Result} (le : s.data.length ≤ n.val) :
    withRegister n s k = .next { s with status := .faulted (.addressError .data n.val s.data.length) } := by
  obtain ⟨lt, _⟩ | ⟨_, e⟩ := withRegister_cases n s k
  · exact absurd lt (Nat.not_lt.2 le)
  · exact e

theorem storeRegister_of_lt {v : Byte} {k : State → Result} (lt : n.val < s.data.length) :
    storeRegister n v s k = k (s.setData (s.data.set n.val v)) := by
  obtain ⟨_, e⟩ | ⟨le, _⟩ := storeRegister_cases n v s k
  · exact e
  · exact absurd lt (Nat.not_lt.2 le)

theorem storeRegister_of_le {v : Byte} {k : State → Result} (le : s.data.length ≤ n.val) :
    storeRegister n v s k = .next { s with status := .faulted (.addressError .data n.val s.data.length) } := by
  obtain ⟨lt, _⟩ | ⟨_, e⟩ := storeRegister_cases n v s k
  · exact absurd lt (Nat.not_lt.2 le)
  · exact e

theorem storeDirect_of_lt {direct v : Byte} {k : State → Result} (lt : direct.toNat < s.code.length) :
    storeDirect direct v s k = k (s.setCode (s.code.set direct.toNat v)) := by
  rw [← directAddress_eq] at lt ⊢
  obtain ⟨_, e⟩ | ⟨le, _⟩ := storeDirect_cases direct v s k
  · exact e
  · exact absurd lt (Nat.not_lt.2 le)

theorem storeDirect_of_le {direct v : Byte} {k : State → Result} (le : s.code.length ≤ direct.toNat) :
    storeDirect direct v s k = .next { s with status := .faulted (.addressError .code direct.toNat s.code.length) } := by
  rw [← directAddress_eq] at le ⊢
  obtain ⟨lt, _⟩ | ⟨_, e⟩ := storeDirect_cases direct v s k
  · exact absurd lt (Nat.not_lt.2 le)
  · exact e

end Operands

/-! Moves (spec/41_accumulator_unary.md, spec/42_mov.md) -/

/-- Settles O20: the model's own definition, evaluated. -/
theorem clearAccumulatorResult : Obligations.ClearAccumulatorResult :=
  fun _ => rfl

/-- The complement in exact numbers. -/
theorem not_eq_ofNat (v : Byte) : ~~~v = BitVec.ofNat 8 (255 - v.toNat) := by
  apply BitVec.eq_of_toNat_eq
  rw [BitVec.toNat_not, BitVec.toNat_ofNat]
  omega

/-- Complementing turns the eight bits' count into eight minus it, so its parity stays (R142). -/
theorem parity_not : ∀ v : Byte, parity (~~~v) = parity v := by
  decide

/-- Settles O21: the complement in exact numbers, with a parity that complementing keeps. -/
theorem complementAccumulatorResult : Obligations.ComplementAccumulatorResult := by
  intro s
  have done : exec .cplA s = .next { s with a := ~~~s.a, flags := { s.flags with p := parity (~~~s.a) } } := rfl
  rw [done, parity_not, not_eq_ofNat]

/-- Settles O22: the model's own definition, evaluated. -/
theorem moveImmediateToAccumulatorResult : Obligations.MoveImmediateToAccumulatorResult :=
  fun _ _ => rfl

/-- Settles O23: the register read on either side of the length. -/
theorem moveRegisterToAccumulatorResult : Obligations.MoveRegisterToAccumulatorResult :=
  fun _ _ => ⟨fun lt => withRegister_of_lt lt, fun le => withRegister_of_le le⟩

/-- Each of the seven forms is the shared operation at its register. -/
theorem exec_of_mem_movRnAForms {i : Instr} {n : Reg} (s : State) (form : (i, n) ∈ movRnAForms) :
    exec i s = movRnA n s := by
  simp only [movRnAForms, List.mem_cons, Prod.mk.injEq, List.not_mem_nil, or_false] at form
  obtain ⟨rfl, rfl⟩ | ⟨rfl, rfl⟩ | ⟨rfl, rfl⟩ | ⟨rfl, rfl⟩ | ⟨rfl, rfl⟩ | ⟨rfl, rfl⟩ | ⟨rfl, rfl⟩ := form <;> rfl

/-- `MOV Rn,A` at decoder level. -/
theorem movRnA_result (n : Reg) (s : State) :
    (n.val < s.data.length → ∃ m, movRnA n s = .next { s with data := m } ∧ s.data.Updated m n.val s.a) ∧
    (s.data.length ≤ n.val → movRnA n s =
      .next { s with status := .faulted (.addressError .data n.val s.data.length) }) :=
  ⟨fun lt => ⟨_, storeRegister_of_lt lt, s.data.updated_set n.val s.a⟩, fun le => storeRegister_of_le le⟩

/-- Settles O24: the shared operation, which each of the seven forms is. -/
theorem moveAccumulatorToRegisterResult : Obligations.MoveAccumulatorToRegisterResult :=
  ⟨movRnA_result, fun _ n s form => exec_of_mem_movRnAForms s form ▸ movRnA_result n s⟩

/-- Settles O25: the code-space write on either side of the length. -/
theorem moveImmediateToCodeResult : Obligations.MoveImmediateToCodeResult :=
  fun direct imm s =>
    ⟨fun lt => ⟨_, storeDirect_of_lt lt, s.code.updated_set direct.toNat imm⟩, fun le => storeDirect_of_le le⟩

/-- Settles O27: the register write on either side of the length. -/
theorem moveImmediateToRegisterResult : Obligations.MoveImmediateToRegisterResult :=
  fun n imm s =>
    ⟨fun lt => ⟨_, storeRegister_of_lt lt, s.data.updated_set n.val imm⟩, fun le => storeRegister_of_le le⟩

/-! Logic (spec/44_logic.md) -/

/-- Settles O34: the immediate form by definition, the register form by the register read. -/
theorem orResult : Obligations.OrResult :=
  ⟨fun _ _ => rfl, fun _ _ => ⟨fun lt => withRegister_of_lt lt, fun le => withRegister_of_le le⟩⟩

/-- Settles O35: the immediate form by definition, the register form by the register read. -/
theorem andResult : Obligations.AndResult :=
  ⟨fun _ _ => rfl, fun _ _ => ⟨fun lt => withRegister_of_lt lt, fun le => withRegister_of_le le⟩⟩

/-- Settles O36: as the other two logic forms, and exclusive or with all ones is the complement. -/
theorem xorResult : Obligations.XorResult := by
  refine ⟨fun _ _ => rfl, fun _ _ => ⟨fun lt => withRegister_of_lt lt, fun le => withRegister_of_le le⟩, fun s => ?_⟩
  have complement : s.a ^^^ BitVec.allOnes 8 = ~~~s.a := BitVec.xor_allOnes
  exact congrArg (fun v => Host.Outcome.next (accWithParity v s)) complement

/-! Fetching and the code store (spec/40_sequencer.md R124, spec/20_memory.md R78) -/

/-- Settles O26: the write is done, and the next read of that cell gives the byte. -/
theorem codeStoreIsSeenByTheNextFetch : Obligations.CodeStoreIsSeenByTheNextFetch := by
  intro direct imm s lt running
  refine ⟨_, storeDirect_of_lt lt, Memory.read_set_same .code imm lt, fun atPc => ?_⟩
  generalize written : writeParity imm (s.setCode (s.code.set direct.toNat imm)) = t at atPc ⊢
  have read : readCode t t.pc.toNat = .ok imm := by
    rw [atPc, ← written]
    exact Memory.read_set_same .code imm lt
  have going : t.status = .running := written ▸ running
  exact ⟨fun isHalt => step_of_readCode_haltByte going (read.trans (congrArg Except.ok isHalt)), fetch_of_readCode read⟩

/-! One bit of a register or flag (spec/45_setb_bit_router.md R226, R229) -/

/-- Settles O38: 0xE0 selects bit 0 of `A`. -/
theorem setbAccumulatorBit : Obligations.SetbAccumulatorBit := by
  intro s
  have selected : routeBit (zext16 0xE0#8) = .ok (.accBit 0) := rfl
  exact bitRoute_of_ok s selected

/-- Settles O41: each address of the range is routed to its flag or refused. -/
theorem setbFlagRange : Obligations.SetbFlagRange := by
  have refused : ∀ bit ∈ [0xB0#8, 0xB1#8, 0xB3#8, 0xB6#8, 0xB7#8],
      routeBit (zext16 bit) = .error (.unknownFlagBit (BitVec.ofNat 16 bit.toNat)) := by decide
  have overflow : routeBit (zext16 0xB2#8) = .ok .overflow := rfl
  have auxCarry : routeBit (zext16 0xB4#8) = .ok .auxCarry := rfl
  have parityFlag : routeBit (zext16 0xB5#8) = .ok .parityFlag := rfl
  exact fun s => ⟨bitRoute_of_ok s overflow, bitRoute_of_ok s auxCarry, bitRoute_of_ok s parityFlag,
    fun bit h => bitRoute_of_error s (refused bit h)⟩

end Sys2Proof.Machine

/-! ### What the arithmetic flags mean (spec/43_arithmetic.md R181, R182) -/

namespace Sys2Proof.Machine

theorem aluAdd_r_eq_add (x y : Byte) : (aluAdd x y).r = x + y :=
  BitVec.eq_of_toNat_eq (by rw [aluAdd_r, BitVec.toNat_add, BitVec.toNat_ofNat]; omega)

theorem aluSub_r_eq_sub (x y : Byte) : (aluSub x y).r = x - y := by
  have r := aluSub_r_toNat x y
  apply BitVec.eq_of_toNat_eq
  rw [BitVec.toNat_sub]
  omega

/-- The library's overflow of eight bits is a signed result that eight bits cannot hold. -/
theorem saddOverflow_eq_signedOverflow (x y : Byte) : x.saddOverflow y = signedOverflow (x.toInt + y.toInt) := by
  rw [Bool.eq_iff_iff]
  simp only [BitVec.saddOverflow, signedOverflow, Bool.or_eq_true, decide_eq_true_iff]
  omega

theorem ssubOverflow_eq_signedOverflow (x y : Byte) : x.ssubOverflow y = signedOverflow (x.toInt - y.toInt) := by
  rw [Bool.eq_iff_iff]
  simp only [BitVec.ssubOverflow, signedOverflow, Bool.or_eq_true, decide_eq_true_iff]
  omega

/-- R170's rule for the signs is signed overflow. -/
theorem aluAdd_ov_eq (x y : Byte) : (aluAdd x y).ov = signedOverflow (x.toInt + y.toInt) := by
  rw [← saddOverflow_eq_signedOverflow, BitVec.saddOverflow_eq, ← aluAdd_r_eq_add]
  rfl

/-- R171's rule for the signs is signed overflow. -/
theorem aluSub_ov_eq (x y : Byte) : (aluSub x y).ov = signedOverflow (x.toInt - y.toInt) := by
  rw [← ssubOverflow_eq_signedOverflow, BitVec.ssubOverflow_eq, ← aluSub_r_eq_sub]
  have signs : (aluSub x y).ov = (x.msb != y.msb && (aluSub x y).r.msb != x.msb) := rfl
  rw [signs]
  cases x.msb <;> cases y.msb <;> simp

theorem aluAdd_ov_iff_outside (x y : Byte) :
    (aluAdd x y).ov = true ↔ x.toInt + y.toInt < -128 ∨ 127 < x.toInt + y.toInt := by
  rw [aluAdd_ov_eq, signedOverflow, decide_eq_true_iff]

theorem aluSub_ov_iff_outside (x y : Byte) :
    (aluSub x y).ov = true ↔ x.toInt - y.toInt < -128 ∨ 127 < x.toInt - y.toInt := by
  rw [aluSub_ov_eq, signedOverflow, decide_eq_true_iff]

/-- The carry into bit 4 of a sum is the difference that bit 4 shows. -/
theorem halfCarry_eq_xor (x y : Byte) : decide (16 ≤ x.toNat % 16 + y.toNat % 16) = (x ^^^ y ^^^ (x + y)).getLsbD 4 := by
  have sum := BitVec.getLsbD_add (i := 4) (by decide) x y
  have carry : BitVec.carry 4 x y false = decide (16 ≤ x.toNat % 16 + y.toNat % 16) := by simp [BitVec.carry]
  rw [BitVec.getLsbD_xor, BitVec.getLsbD_xor, sum, carry]
  cases x.getLsbD 4 <;> cases y.getLsbD 4 <;> simp

theorem aluAdd_ac_eq (x y : Byte) : (aluAdd x y).ac = decide (16 ≤ x.toNat % 16 + y.toNat % 16) := rfl

theorem aluSub_ac_eq (x y : Byte) : (aluSub x y).ac = decide (x.toNat % 16 < y.toNat % 16) := rfl

theorem aluAdd_ac_eq_xor (x y : Byte) : (aluAdd x y).ac = (x ^^^ y ^^^ (aluAdd x y).r).getLsbD 4 := by
  rw [aluAdd_r_eq_add, aluAdd_ac_eq]
  exact halfCarry_eq_xor x y

/-- The low nibble of a difference. -/
theorem sub_toNat_mod_sixteen (x y : Byte) : (x - y).toNat % 16 =
    if y.toNat % 16 ≤ x.toNat % 16 then x.toNat % 16 - y.toNat % 16 else 16 + x.toNat % 16 - y.toNat % 16 := by
  have lt : y.toNat < 256 := y.isLt
  have low : (x - y).toNat % 16 = (256 - y.toNat + x.toNat) % 16 := by
    rw [BitVec.toNat_sub]
    exact Nat.mod_mod_of_dvd _ ⟨16, rfl⟩
  rw [low]
  split <;> omega

/-- A borrow from bit 4 in `x - y` is the carry into it in the sum `(x - y) + y`. -/
theorem aluSub_ac_eq_xor (x y : Byte) : (aluSub x y).ac = (x ^^^ y ^^^ (aluSub x y).r).getLsbD 4 := by
  rw [aluSub_r_eq_sub]
  have sum := halfCarry_eq_xor (x - y) y
  rw [BitVec.sub_add_cancel] at sum
  rw [BitVec.xor_comm (x ^^^ y), BitVec.xor_comm x, ← BitVec.xor_assoc, ← sum, aluSub_ac_eq, sub_toNat_mod_sixteen,
    decide_eq_decide]
  split <;> omega

/-- Settles O30: the model's flags are the library's signed overflow and carry, whose meaning is known. -/
theorem overflowIsSignedOverflow : Obligations.OverflowIsSignedOverflow := by
  refine fun x y => ⟨aluAdd_ov_iff_outside x y, aluSub_ov_iff_outside x y, aluAdd_ac_eq_xor x y, aluSub_ac_eq_xor x y,
    fun exact => ?_, fun exact => ?_⟩
  · rw [aluAdd_ov_eq, ← saddOverflow_eq_signedOverflow] at exact
    rw [aluAdd_r_eq_add]
    exact BitVec.toInt_add_of_not_saddOverflow (by simp [exact])
  · rw [aluSub_ov_eq, ← ssubOverflow_eq_signedOverflow] at exact
    rw [aluSub_r_eq_sub]
    exact BitVec.toInt_sub_of_not_ssubOverflow (by simp [exact])

/-! ### Results of the arithmetic instructions -/

/-- Adding with its flags in exact numbers. -/
theorem accWithArith_aluAdd (v : Byte) (s : State) :
    accWithArith (aluAdd s.a v) s = { s with a := s.a + v, flags := sumFlags s.flags s.a v } := by
  have cy : (aluAdd s.a v).cy = decide (255 < s.a.toNat + v.toNat) := by
    rw [Bool.eq_iff_iff, aluAdd_cy_iff, decide_eq_true_iff]
    omega
  simp only [accWithArith, writeArithFlags, State.setA, State.setFlags, sumFlags, cy, aluAdd_ac_eq, aluAdd_ov_eq,
    aluAdd_r_eq_add]
  rfl

/-- The flags of a subtraction in exact numbers. -/
theorem writeArithFlags_aluSub (x y : Byte) (s : State) :
    writeArithFlags (aluSub x y) s = { s with flags := differenceFlags s.flags x y } := by
  have cy : (aluSub x y).cy = decide (x.toNat < y.toNat) := rfl
  simp only [writeArithFlags, State.setFlags, differenceFlags, cy, aluSub_ac_eq, aluSub_ov_eq, aluSub_r_eq_sub]

theorem accWithArith_aluSub (v : Byte) (s : State) :
    accWithArith (aluSub s.a v) s = { s with a := s.a - v, flags := differenceFlags s.flags s.a v } := by
  rw [accWithArith, writeArithFlags_aluSub, aluSub_r_eq_sub]
  rfl

/-- Settles O31: one addition in exact numbers, of the immediate or of the register's byte. -/
theorem addResult : Obligations.AddResult := by
  refine ⟨fun imm s => congrArg Host.Outcome.next (accWithArith_aluAdd imm s), fun n s => ⟨fun lt => ?_, fun le => ?_⟩⟩
  · exact (withRegister_of_lt lt).trans (congrArg Host.Outcome.next (accWithArith_aluAdd _ s))
  · exact withRegister_of_le le

/-- Settles O32: one subtraction in exact numbers, of the immediate or of the register's byte. -/
theorem subtractResult : Obligations.SubtractResult := by
  refine ⟨fun imm s => congrArg Host.Outcome.next (accWithArith_aluSub imm s), fun n s => ⟨fun lt => ?_, fun le => ?_⟩⟩
  · exact (withRegister_of_lt lt).trans (congrArg Host.Outcome.next (accWithArith_aluSub _ s))
  · exact withRegister_of_le le

/-- Only -128 has no predecessor among the signed bytes. -/
theorem signedOverflow_toInt_sub_one : ∀ x : Byte,
    signedOverflow (x.toInt - (0x01#8 : Byte).toInt) = decide (x = 0x80#8) := by
  decide

/-- The four flags of a decrement, told by the value that was decremented (R183). -/
theorem differenceFlags_one (f : Flags) (x : Byte) : differenceFlags f x 0x01#8 = { f with
    cy := decide (x = 0x00#8), ac := decide (x.toNat % 16 = 0), ov := decide (x = 0x80#8), p := parity (x - 1#8) } := by
  have cy : (x.toNat < (0x01#8 : Byte).toNat) ↔ x = 0x00#8 := by
    rw [← BitVec.toNat_inj, BitVec.toNat_ofNat, BitVec.toNat_ofNat]
    omega
  have ac : (x.toNat % 16 < (0x01#8 : Byte).toNat % 16) ↔ x.toNat % 16 = 0 := by
    rw [BitVec.toNat_ofNat]
    omega
  simp only [differenceFlags, cy, ac, signedOverflow_toInt_sub_one]

/-- Settles O33: a subtraction of 1, on the accumulator or on the register's cell. -/
theorem decrementResult : Obligations.DecrementResult := by
  refine ⟨fun s => ?_, fun n s => ⟨fun lt => ?_, fun le => withRegister_of_le le⟩⟩
  · rw [← differenceFlags_one]
    exact congrArg Host.Outcome.next (accWithArith_aluSub 0x01#8 s)
  · refine ⟨s.data.set n.val (s.data.get n.val - 1#8), ?_, s.data.updated_set _ _⟩
    rw [← differenceFlags_one, ← aluSub_r_eq_sub]
    exact (withRegister_of_lt lt).trans
      ((storeRegister_of_lt lt).trans (congrArg Host.Outcome.next (writeArithFlags_aluSub _ _ _)))

end Sys2Proof.Machine

/-! ### Which addresses select which bit (spec/45_setb_bit_router.md R224 to R231) -/

namespace Sys2Proof.Machine

/-- The address range of the rule by which the router selects the target. -/
def BitTarget.ClaimedAt (addr : Nat) : BitTarget → Prop
  | .dataBit i k => addr = 8 * i + k.val ∧ i < 16
  | .accBit k => addr = 0xE0 ∧ k = 0
  | .bRegBit k => addr = 0xF0 ∧ k = 0
  | .carry => addr = 0xD0
  | .overflow => addr = 0xB2
  | .auxCarry => addr = 0xB4
  | .parityFlag => addr = 0xB5
  | .pin p k => addr = 0x80 + 0x10 * p.val + k.val ∧ p.val < 3

/-- A selected flag stands at its named position of the flag range. -/
theorem claimedAt_of_routeFlag {addr : Addr} {x : BitTarget} (ge : 0xB0 ≤ addr.toNat) (le : addr.toNat ≤ 0xB7)
    (h : routeFlag addr = .ok x) : x.ClaimedAt addr.toNat := by
  have position := bitPosition_val addr
  unfold routeFlag at h
  split_ifs at h with two four five <;> cases h
  · rw [two] at position; simp only [BitTarget.ClaimedAt]; omega
  · rw [four] at position; simp only [BitTarget.ClaimedAt]; omega
  · rw [five] at position; simp only [BitTarget.ClaimedAt]; omega

/-- Whatever the router selects, the address is in the range of the target's own rule. -/
theorem claimedAt_of_routeBit {addr : Addr} {x : BitTarget} (h : routeBit addr = .ok x) : x.ClaimedAt addr.toNat := by
  have position := bitPosition_val addr
  simp only [routeBit, BitVec.le_def, ← BitVec.toNat_inj, BitVec.toNat_ofNat] at h
  split_ifs at h with data code acc b cy flags port0 port1 port2
  · cases h
    simp only [BitTarget.ClaimedAt, BitVec.toNat_ushiftRight, Nat.shiftRight_eq_div_pow]
    omega
  · cases h; exact ⟨acc, Fin.ext (by rw [position, acc]; rfl)⟩
  · cases h; exact ⟨b, Fin.ext (by rw [position, b]; rfl)⟩
  · cases h; exact cy
  · exact claimedAt_of_routeFlag flags.1 flags.2 h
  · cases h; simp only [BitTarget.ClaimedAt, Fin.val_zero]; omega
  · cases h; simp only [BitTarget.ClaimedAt, Fin.val_one]; omega
  · cases h; simp only [BitTarget.ClaimedAt, Fin.val_two]; omega

/-- The router's refusals, each with its range. -/
theorem routeBit_error_cases {addr : Addr} {e : ErrorValue} (h : routeBit addr = .error e) :
    (e = .readOnlyMemory addr ∧ 0x2000 ≤ addr.toNat) ∨
    (e = .unknownFlagBit addr ∧ addr.toNat ∈ [0xB0, 0xB1, 0xB3, 0xB6, 0xB7]) ∨
    (e = .invalidBitAddress addr ∧ UnclaimedAddr addr) := by
  have position := bitPosition_val addr
  simp only [routeBit, routeFlag, BitVec.le_def, ← BitVec.toNat_inj, ← Fin.val_inj, BitVec.toNat_ofNat] at h
  split_ifs at h with data code acc b cy flags two four five port0 port1 port2 <;> cases h
  · exact .inl ⟨rfl, code.1⟩
  · refine .inr (.inl ⟨rfl, ?_⟩)
    have named : (2 : Fin 8).val = 2 ∧ (4 : Fin 8).val = 4 ∧ (5 : Fin 8).val = 5 := ⟨rfl, rfl, rfl⟩
    simp only [List.mem_cons, List.not_mem_nil]
    omega
  · refine .inr (.inr ⟨rfl, ?_⟩)
    rw [UnclaimedAddr]
    omega

/-- The addresses of a port's pins select its pins (decision D5): all other rules and refusals have other ranges. -/
theorem routeBit_of_pin {addr : Addr} {p : Fin 4} {k : Fin 8} (port : p.val < 3)
    (h : addr.toNat = 0x80 + 0x10 * p.val + k.val) : routeBit addr = .ok (.pin p k) := by
  have ltK := k.isLt
  cases routed : routeBit addr with
  | error e =>
    obtain ⟨-, code⟩ | ⟨-, flag⟩ | ⟨-, unclaimed⟩ := routeBit_error_cases routed
    · omega
    · simp only [List.mem_cons, List.not_mem_nil, or_false] at flag
      omega
    · rw [UnclaimedAddr] at unclaimed
      omega
  | ok x =>
    have claimed := claimedAt_of_routeBit routed
    cases x <;> simp only [BitTarget.ClaimedAt] at claimed
    case pin q j =>
      have sameP : q = p := Fin.ext (by omega)
      have sameK : j = k := Fin.ext (by omega)
      rw [sameP, sameK]
    all_goals omega

end Sys2Proof.Machine

/-! ### What an instruction can answer (spec/40_sequencer.md R127) -/

namespace Sys2Proof.Machine

/-- The state in which the selected bit is 1 and nothing else has changed (R223). -/
def BitTarget.raised (x : BitTarget) (s : State) : State :=
  match x with
  | .dataBit i k => s.setData (s.data.set i (orBit (s.data.get i) k))
  | .accBit k => s.setA (orBit s.a k)
  | .bRegBit k => s.setB (orBit s.b k)
  | .carry => s.setFlags { s.flags with cy := true }
  | .overflow => s.setFlags { s.flags with ov := true }
  | .auxCarry => s.setFlags { s.flags with ac := true }
  | .parityFlag => s.setFlags { s.flags with p := true }
  | .pin p k => s.setPin p k

/-- A data bit's byte is within data space; every other target exists. -/
def BitTarget.InBounds (x : BitTarget) (s : State) : Prop :=
  ∀ i k, x = .dataBit i k → i < s.data.length

theorem setTarget_of_inBounds {x : BitTarget} {s : State} (h : x.InBounds s) : setTarget x s = .next (x.raised s) := by
  cases x with
  | dataBit i k =>
    obtain ⟨_, done⟩ | ⟨le, _⟩ := setTarget_dataBit_cases i k s
    · exact done
    · exact absurd (h i k rfl) (Nat.not_lt.2 le)
  | accBit | bRegBit | carry | overflow | auxCarry | parityFlag | pin => rfl

/-- The errors that an instruction's own effect can raise in a state (spec/60_exceptions.md R252). -/
inductive Raises (s : State) : Instr → ErrorValue → Prop
  | register {i : Instr} (n : Reg) : i.length ≤ 2 → s.data.length ≤ regAddress n →
      Raises s i (.addressError .data (regAddress n) s.data.length)
  | direct (direct imm : Byte) : s.code.length ≤ directAddress direct →
      Raises s (.movDirectImm direct imm) (.addressError .code (directAddress direct) s.code.length)
  | dataBit {bit : Byte} {i : Nat} {k : Fin 8} : routeBit (zext16 bit) = .ok (.dataBit i k) → s.data.length ≤ i →
      Raises s (.setb bit) (.addressError .data i s.data.length)
  | router {bit : Byte} {e : ErrorValue} : routeBit (zext16 bit) = .error e → Raises s (.setb bit) e

/-- The states an instruction can answer: one rule for each class of completed effects, and one for all errors. -/
inductive Effect (s : State) : Instr → State → Prop
  | acc {i : Instr} (v : Byte) : i.movesToAcc = true → Effect s i (accWithParity v s)
  | arith {i : Instr} (x : AluResult) : i.arithOnAcc = true → Effect s i (accWithArith x s)
  | store {i : Instr} {n : Reg} : (i, n) ∈ movRnAForms → regAddress n < s.data.length →
      Effect s i (s.setData (s.data.set (regAddress n) s.a))
  | storeImm (n : Reg) (imm : Byte) : regAddress n < s.data.length →
      Effect s (.movRnImm n imm) (writeParity imm (s.setData (s.data.set (regAddress n) imm)))
  | dec (n : Reg) (x : AluResult) : regAddress n < s.data.length →
      Effect s (.decRn n) (writeArithFlags x (s.setData (s.data.set (regAddress n) x.r)))
  | storeCode (direct imm : Byte) : directAddress direct < s.code.length →
      Effect s (.movDirectImm direct imm) (writeParity imm (s.setCode (s.code.set (directAddress direct) imm)))
  | setBit {bit : Byte} {x : BitTarget} : routeBit (zext16 bit) = .ok x → x.InBounds s →
      Effect s (.setb bit) (x.raised s)
  | halt : Effect s .halt (s.setStatus .halted)
  | error {i : Instr} {e : ErrorValue} : Raises s i e → Effect s i (raise e s)

/-- The result is a next state that the instruction can answer. -/
def Effective (s : State) (i : Instr) (r : Result) : Prop :=
  ∃ t, r = .next t ∧ Effect s i t

theorem effective_next {s t : State} {i : Instr} (h : Effect s i t) : Effective s i (.next t) :=
  ⟨t, rfl, h⟩

theorem effective_withRegister {s : State} {i : Instr} {n : Reg} {k : Byte → Result} (short : i.length ≤ 2)
    (goes : Effective s i (k (s.data.get (regAddress n)))) : Effective s i (withRegister n s k) := by
  obtain ⟨_, e⟩ | ⟨le, e⟩ := withRegister_cases n s k
  · exact e ▸ goes
  · exact e ▸ effective_next (.error (.register n short le))

theorem effective_storeRegister {s : State} {i : Instr} {n : Reg} {v : Byte} {k : State → Result} (short : i.length ≤ 2)
    (goes : regAddress n < s.data.length → Effective s i (k (s.setData (s.data.set (regAddress n) v)))) :
    Effective s i (storeRegister n v s k) := by
  obtain ⟨lt, e⟩ | ⟨le, e⟩ := storeRegister_cases n v s k
  · exact e ▸ goes lt
  · exact e ▸ effective_next (.error (.register n short le))

theorem effective_movRnA {s : State} {i : Instr} {n : Reg} (form : (i, n) ∈ movRnAForms) (short : i.length ≤ 2) :
    Effective s i (movRnA n s) :=
  effective_storeRegister short (fun lt => effective_next (.store form lt))

theorem effective_movDirectImm (s : State) (direct imm : Byte) :
    Effective s (.movDirectImm direct imm) (execMovDirectImm direct imm s) := by
  obtain ⟨lt, e⟩ | ⟨le, e⟩ := storeDirect_cases direct imm s (fun s1 => .next (writeParity imm s1))
  · exact ⟨_, e, .storeCode direct imm lt⟩
  · exact ⟨_, e, .error (.direct direct imm le)⟩

theorem effective_setb (s : State) (bit : Byte) : Effective s (.setb bit) (execSetb bit s) := by
  cases routed : routeBit (zext16 bit) with
  | error e => exact ⟨_, bitRoute_of_error s routed, .error (.router routed)⟩
  | ok x =>
    by_cases inBounds : x.InBounds s
    · exact ⟨_, (bitRoute_of_ok s routed).trans (setTarget_of_inBounds inBounds), .setBit routed inBounds⟩
    · simp only [BitTarget.InBounds, not_forall] at inBounds
      obtain ⟨i, k, rfl, out⟩ := inBounds
      obtain ⟨lt, _⟩ | ⟨le, refused⟩ := setTarget_dataBit_cases i k s
      · exact absurd lt out
      · exact ⟨_, (bitRoute_of_ok s routed).trans refused, .error (.dataBit routed le)⟩

/-- Every instruction answers one of these states. -/
theorem exec_effective (i : Instr) (s : State) : Effective s i (exec i s) := by
  have short {i : Instr} (oneByte : i.length = 1) : i.length ≤ 2 := by omega
  cases i with
  | clrA | cplA | movAImm | orlAImm | anlAImm | xrlAImm => exact effective_next (.acc _ rfl)
  | movARn | orlARn | anlARn | xrlARn => exact effective_withRegister (short rfl) (effective_next (.acc _ rfl))
  | addAImm | subAImm | decA => exact effective_next (.arith _ rfl)
  | addARn | subARn => exact effective_withRegister (short rfl) (effective_next (.arith _ rfl))
  | movR0A | movR1A | movR2A | movR3A | movR4A | movR5A | movR6A =>
    exact effective_movRnA (by simp [movRnAForms]) (short rfl)
  | movRnImm n imm => exact effective_storeRegister (Nat.le_refl 2) (fun lt => effective_next (.storeImm n imm lt))
  | decRn n =>
    exact effective_withRegister (short rfl)
      (effective_storeRegister (short rfl) (fun lt => effective_next (.dec n _ lt)))
  | movDirectImm direct imm => exact effective_movDirectImm s direct imm
  | setb bit => exact effective_setb s bit
  | halt => exact effective_next .halt

theorem effect_of_exec {i : Instr} {s t : State} (h : exec i s = .next t) : Effect s i t := by
  obtain ⟨u, answer, effect⟩ := exec_effective i s
  cases h.symm.trans answer
  exact effect

/-! ### What every instruction keeps (spec/10_state.md R21, R25, R31, R36) -/

section Kept

variable {i : Instr} {s t : State}

/-- Setting a bit keeps the program counter, `DPTR`, the three flags that nothing writes, code space, the sizes and the
status. -/
theorem BitTarget.raised_keeps (x : BitTarget) (s : State) :
    (x.raised s).pc = s.pc ∧ (x.raised s).dptr = s.dptr ∧ (x.raised s).flags.f0 = s.flags.f0 ∧
    (x.raised s).flags.rs1 = s.flags.rs1 ∧ (x.raised s).flags.rs0 = s.flags.rs0 ∧ (x.raised s).code = s.code ∧
    (x.raised s).data.length = s.data.length ∧ (x.raised s).status = s.status := by
  cases x <;> exact ⟨rfl, rfl, rfl, rfl, rfl, rfl, rfl, rfl⟩

theorem Effect.keeps (h : Effect s i t) :
    t.pc = s.pc ∧ t.dptr = s.dptr ∧ t.flags.f0 = s.flags.f0 ∧ t.flags.rs1 = s.flags.rs1 ∧ t.flags.rs0 = s.flags.rs0 ∧
    t.code.length = s.code.length ∧ t.data.length = s.data.length := by
  cases h with
  | @setBit bit x =>
    obtain ⟨pc, dptr, f0, rs1, rs0, code, data, -⟩ := x.raised_keeps s
    exact ⟨pc, dptr, f0, rs1, rs0, congrArg Memory.length code, data⟩
  | acc | arith | store | storeImm | dec | storeCode | halt | error => exact ⟨rfl, rfl, rfl, rfl, rfl, rfl, rfl⟩

/-- Settles O51: each class of effects keeps the fields. -/
theorem everyInstructionAnswersANextState : Obligations.EveryInstructionAnswersANextState := by
  intro i s
  obtain ⟨t, answer, effect⟩ := exec_effective i s
  exact ⟨t, answer, effect.keeps⟩

/-- Settles O14: the fetch on either side of the length, and the program counter among what every instruction keeps. -/
theorem fetchReadsThenIncrements : Obligations.FetchReadsThenIncrements := by
  refine ⟨fun s lt => ?_, fun s le => fetch_of_le le, fun i s t answer => (effect_of_exec answer).keeps.1⟩
  rw [fetch_of_lt lt, BitVec.ofNat_add, BitVec.ofNat_toNat, BitVec.setWidth_eq]
  rfl

/-- A running step answers a next state, and an ended run takes none. -/
theorem exists_step_of_running (running : s.status = .running) : ∃ t, step s = .next t := by
  obtain ⟨e, u, -, answer⟩ | ⟨i, u, -, runs⟩ := step_cases running
  · exact ⟨_, answer⟩
  · obtain ⟨t, answer, -⟩ := exec_effective i u
    exact ⟨t, runs.trans answer⟩

theorem running_of_step (answer : step s = .next t) : s.status = .running := by
  cases status : s.status with
  | running => rfl
  | halted => cases (step_of_halted status).symm.trans answer
  | faulted e => cases (step_of_faulted status).symm.trans answer

/-- Settles O17: the two directions above. -/
theorem stepIsTakenExactlyInRunning : Obligations.StepIsTakenExactlyInRunning :=
  fun _ => ⟨fun ⟨_, answer⟩ => running_of_step answer, exists_step_of_running⟩

/-! ### How an instruction ends -/

/-- An instruction goes on, or is the halt sentinel, or has raised one of its errors and done nothing else. -/
theorem Effect.status_cases (h : Effect s i t) :
    (i ≠ .halt ∧ t.status = s.status) ∨ (i = .halt ∧ t.status = .halted) ∨ ∃ e, Raises s i e ∧ t = raise e s := by
  cases h with
  | acc _ isMove => exact .inl ⟨(by rintro rfl; cases isMove), rfl⟩
  | arith _ isArith => exact .inl ⟨(by rintro rfl; cases isArith), rfl⟩
  | store form => exact .inl ⟨(by rintro rfl; simp [movRnAForms] at form), rfl⟩
  | storeImm | dec | storeCode => exact .inl ⟨nofun, rfl⟩
  | @setBit bit x =>
    obtain ⟨-, -, -, -, -, -, -, status⟩ := x.raised_keeps s
    exact .inl ⟨nofun, status⟩
  | halt => exact .inr (.inl ⟨rfl, rfl⟩)
  | error raises => exact .inr (.inr ⟨_, raises, rfl⟩)

/-- A step is an instruction's effect, or an error of the fetching, in the old state with another `PC`. -/
theorem step_effect (answer : step s = .next t) :
    ∃ pc, (∃ i, Effect (s.setPc pc) i t) ∨ ∃ e, t = raise e (s.setPc pc) := by
  have running := running_of_step answer
  have matched := fetchInstr_matched (s := s) rfl rfl
  generalize fetched : fetchInstr s = r at matched
  cases matched with
  | ok i moved =>
    obtain ⟨pc, rfl, -⟩ := moved
    exact ⟨pc, .inl ⟨i, effect_of_exec ((step_of_fetchInstr_ok running fetched).symm.trans answer)⟩⟩
  | @error x _ moved =>
    obtain ⟨-, pc, eq, -⟩ := moved
    have fault := step_of_fetchInstr_error running (t := x.2) (e := x.1) fetched
    exact ⟨pc, .inr ⟨x.1, by rw [← eq]; exact (Host.Outcome.next.inj (fault.symm.trans answer)).symm⟩⟩

/-- Settles O56: an error is raised in the state that the fetches left, with nothing written. -/
theorem faultingStepChangesOnlyPcAndStatus : Obligations.FaultingStepChangesOnlyPcAndStatus := by
  intro s t e answer faulted
  have running := running_of_step answer
  suffices raised : ∃ e' pc, t = raise e' (s.setPc pc) by
    obtain ⟨e', pc, rfl⟩ := raised
    cases faulted
    rfl
  obtain ⟨pc, ⟨i, effect⟩ | ⟨e', raised⟩⟩ := step_effect answer
  · obtain ⟨-, kept⟩ | ⟨-, halted⟩ | ⟨e', -, raised⟩ := effect.status_cases
    · cases faulted.symm.trans (kept.trans running)
    · cases faulted.symm.trans halted
    · exact ⟨e', pc, raised⟩
  · exact ⟨e', pc, raised⟩

end Kept

end Sys2Proof.Machine

/-! ### Who writes what (spec/10_state.md R22 to R30, R40; spec/20_memory.md R63, R65, R72) -/

namespace Sys2Proof.Machine

theorem zext16_toNat_eq {bit v : Byte} (h : (zext16 bit).toNat = v.toNat) : bit = v :=
  BitVec.eq_of_toNat_eq ((zext16_toNat bit).symm.trans h)

section Writers

variable {i : Instr} {s t : State}

/-- `A` is written by the moves and logic, the arithmetic on it, and `SETB 0xE0`. -/
theorem Effect.writes_a (h : Effect s i t) (ne : t.a ≠ s.a) :
    i.movesToAcc = true ∨ i.arithOnAcc = true ∨ i = .setb 0xE0#8 := by
  cases h with
  | acc _ isMove => exact .inl isMove
  | arith _ isArith => exact .inr (.inl isArith)
  | @setBit bit x routed =>
    cases x with
    | accBit k => exact .inr (.inr (congrArg Instr.setb (zext16_toNat_eq (claimedAt_of_routeBit routed).1)))
    | _ => exact absurd rfl ne
  | _ => exact absurd rfl ne

/-- `B` is written by `SETB 0xF0`. -/
theorem Effect.writes_b (h : Effect s i t) (ne : t.b ≠ s.b) : i = .setb 0xF0#8 := by
  cases h with
  | @setBit bit x routed =>
    cases x with
    | bRegBit k => exact congrArg Instr.setb (zext16_toNat_eq (claimedAt_of_routeBit routed).1)
    | _ => exact absurd rfl ne
  | _ => exact absurd rfl ne

theorem arithmetic_of_arithOnAcc (h : i.arithOnAcc = true) : i.arithmetic = true := by
  cases i with
  | addAImm | addARn | subAImm | subARn | decA => rfl
  | _ => cases h

/-- `CY`, `AC` and `OV` are written by the six arithmetic forms, and each by `SETB` of its own address. -/
theorem Effect.writes_arith_flags (h : Effect s i t) :
    (t.flags.cy ≠ s.flags.cy → i.arithmetic = true ∨ i = .setb 0xD0#8) ∧
    (t.flags.ac ≠ s.flags.ac → i.arithmetic = true ∨ i = .setb 0xB4#8) ∧
    (t.flags.ov ≠ s.flags.ov → i.arithmetic = true ∨ i = .setb 0xB2#8) := by
  have kept {b : Bool} {P : Prop} (ne : b ≠ b) : P := absurd rfl ne
  cases h with
  | arith _ isArith =>
    have writes := arithmetic_of_arithOnAcc isArith
    exact ⟨fun _ => .inl writes, fun _ => .inl writes, fun _ => .inl writes⟩
  | dec => exact ⟨fun _ => .inl rfl, fun _ => .inl rfl, fun _ => .inl rfl⟩
  | @setBit bit x routed =>
    have claimed := claimedAt_of_routeBit routed
    cases x with
    | carry => exact ⟨fun _ => .inr (congrArg Instr.setb (zext16_toNat_eq claimed)), kept, kept⟩
    | auxCarry => exact ⟨kept, fun _ => .inr (congrArg Instr.setb (zext16_toNat_eq claimed)), kept⟩
    | overflow => exact ⟨kept, kept, fun _ => .inr (congrArg Instr.setb (zext16_toNat_eq claimed))⟩
    | _ => exact ⟨kept, kept, kept⟩
  | _ => exact ⟨kept, kept, kept⟩

/-- `P` is written by the moves and logic on `A`, the six arithmetic forms, the two stores of an immediate and
`SETB 0xB5`. -/
theorem Effect.writes_p (h : Effect s i t) (ne : t.flags.p ≠ s.flags.p) :
    i.movesToAcc = true ∨ i.arithmetic = true ∨ (∃ direct imm, i = .movDirectImm direct imm) ∨
      (∃ n imm, i = .movRnImm n imm) ∨ i = .setb 0xB5#8 := by
  cases h with
  | acc _ isMove => exact .inl isMove
  | arith _ isArith => exact .inr (.inl (arithmetic_of_arithOnAcc isArith))
  | dec => exact .inr (.inl rfl)
  | storeCode direct imm => exact .inr (.inr (.inl ⟨direct, imm, rfl⟩))
  | storeImm n imm => exact .inr (.inr (.inr (.inl ⟨n, imm, rfl⟩)))
  | @setBit bit x routed =>
    cases x with
    | parityFlag =>
      exact .inr (.inr (.inr (.inr (congrArg Instr.setb (zext16_toNat_eq (claimedAt_of_routeBit routed))))))
    | _ => exact absurd rfl ne
  | _ => exact absurd rfl ne

/-- Settles O53: the writers of each register and flag. -/
theorem onlyTheNamedInstructionsWriteEachRegisterAndFlag :
    Obligations.OnlyTheNamedInstructionsWriteEachRegisterAndFlag := by
  intro i s t answer
  have effect := effect_of_exec answer
  obtain ⟨cy, ac, ov⟩ := effect.writes_arith_flags
  exact ⟨effect.writes_a, effect.writes_b, cy, ac, ov, effect.writes_p⟩

/-! Memory -/

theorem dataStore_of_mem_movRnAForms {n : Reg} (form : (i, n) ∈ movRnAForms) : dataStore i = some (regAddress n) := by
  have all : ∀ f ∈ movRnAForms, dataStore f.1 = some (regAddress f.2) := by decide
  exact all (i, n) form

theorem dataStore_setb_eq_some_iff {bit : Byte} {addr : Nat} :
    dataStore (.setb bit) = some addr ↔ ∃ k, routeBit (zext16 bit) = .ok (.dataBit addr k) := by
  rw [dataStore]
  split
  · next i k routed => simp [routed]
  · next other => simp only [reduceCtorEq, false_iff, not_exists]; exact fun k => other addr k

/-- Data space reads as before outside the address the instruction stores to. -/
theorem Effect.keeps_data (h : Effect s i t) {addr : Nat} (ne : dataStore i ≠ some addr) :
    readData t addr = readData s addr := by
  have other {v : Byte} {cell : Nat} (store : dataStore i = some cell) :
      (s.data.set cell v).read .data addr = s.data.read .data addr :=
    s.data.read_set_other .data v (fun e => ne (e ▸ store))
  cases h with
  | store form => exact other (dataStore_of_mem_movRnAForms form)
  | storeImm | dec => exact other rfl
  | @setBit bit x routed =>
    cases x with
    | dataBit i k => exact other (dataStore_setb_eq_some_iff.2 ⟨k, routed⟩)
    | _ => rfl
  | _ => rfl

/-- Code space reads as before outside the address the instruction stores to. -/
theorem Effect.keeps_code (h : Effect s i t) {addr : Nat} (ne : codeStore i ≠ some addr) :
    readCode t addr = readCode s addr := by
  cases h with
  | storeCode direct imm => exact s.code.read_set_other .code imm (fun e => ne (e ▸ rfl))
  | @setBit bit x =>
    obtain ⟨-, -, -, -, -, code, -⟩ := x.raised_keeps s
    rw [readCode, code, readCode]
  | _ => rfl

/-- A register cell is one of the first eight, and a bit-addressable byte one of the first sixteen (R72). -/
theorem dataStore_lt {addr : Nat} (h : dataStore i = some addr) : addr < 16 := by
  cases i with
  | movR0A | movR1A | movR2A | movR3A | movR4A | movR5A | movR6A => cases h; decide
  | movRnImm n imm => cases h; exact Nat.lt_trans n.isLt (by decide)
  | decRn n => cases h; exact Nat.lt_trans n.isLt (by decide)
  | setb bit =>
    obtain ⟨k, routed⟩ := dataStore_setb_eq_some_iff.1 h
    exact (claimedAt_of_routeBit routed).2
  | _ => cases h

/-- `direct` is one byte (decision D2). -/
theorem codeStore_lt {addr : Nat} (h : codeStore i = some addr) : addr < 256 := by
  cases i with
  | movDirectImm direct imm => cases h; exact directAddress_eq direct ▸ direct.isLt
  | _ => cases h

/-- Settles O52: the stored cell is the only one that changes, and it lies in the ranges of R72 and D2. -/
theorem onlyTheStoredCellChanges : Obligations.OnlyTheStoredCellChanges := by
  refine ⟨fun i s t answer => ?_, fun _ _ => dataStore_lt, fun _ _ => codeStore_lt⟩
  have effect := effect_of_exec answer
  exact ⟨fun _ => effect.keeps_data, fun _ => effect.keeps_code⟩

/-! Pins -/

/-- A pin that an instruction changes is the one its router selects, is of port 0 to 2, and goes high. -/
theorem Effect.writes_pin (h : Effect s i t) {p : Fin 4} {k : Fin 8} (ne : t.pin p k ≠ s.pin p k) :
    t.pin p k = true ∧ ∃ bit, i = .setb bit ∧ routeBit (zext16 bit) = .ok (.pin p k) := by
  cases h with
  | @setBit bit x routed =>
    cases x with
    | pin q j =>
      simp only [BitTarget.raised, State.pin_setPin] at ne ⊢
      split at ne
      · next same =>
        obtain ⟨rfl, rfl⟩ := same
        exact ⟨if_pos ⟨rfl, rfl⟩, bit, rfl, routed⟩
      · exact absurd rfl ne
    | _ => exact absurd rfl ne
  | _ => exact absurd rfl ne

/-- No instruction lowers a pin. -/
theorem Effect.keeps_high (h : Effect s i t) {p : Fin 4} {k : Fin 8} (high : s.pin p k = true) : t.pin p k = true := by
  by_cases same : t.pin p k = s.pin p k
  · exact same.trans high
  · exact (h.writes_pin same).1

/-- Settles O54: a changed pin stands at the bit address that selects it, and only an effect changes pins in a step. -/
theorem pinsOnlyRise : Obligations.PinsOnlyRise := by
  refine ⟨fun i s t p k answer ne => ?_, fun s t p k answer high => ?_⟩
  · obtain ⟨high, bit, rfl, routed⟩ := (effect_of_exec answer).writes_pin ne
    obtain ⟨addr, port⟩ := claimedAt_of_routeBit routed
    refine ⟨high, fun isThree => absurd port (isThree ▸ by decide), ?_⟩
    rw [← addr, zext16_toNat, BitVec.ofNat_toNat, BitVec.setWidth_eq]
  · obtain ⟨pc, ⟨i, effect⟩ | ⟨e, rfl⟩⟩ := step_effect answer
    · exact effect.keeps_high high
    · exact high

end Writers

end Sys2Proof.Machine

/-! ### Frames of the classes of instructions -/

namespace Sys2Proof.Machine

section Frames

variable {i : Instr} {s t : State}

theorem answers_exec_of_movesToAcc (isMove : i.movesToAcc = true) :
    Answers (fun t => (∃ v, t = accWithParity v s) ∨ ∃ e, t = raise e s) (exec i s) := by
  cases i with
  | clrA | cplA | movAImm | orlAImm | anlAImm | xrlAImm => exact answers_next (.inl ⟨_, rfl⟩)
  | movARn | orlARn | anlARn | xrlARn =>
    exact answers_withRegister (fun _ => .inr ⟨_, rfl⟩) (fun _ => answers_next (.inl ⟨_, rfl⟩))
  | _ => cases isMove

theorem answers_exec_of_arithOnAcc (isArith : i.arithOnAcc = true) :
    Answers (fun t => (∃ x, t = accWithArith x s) ∨ ∃ e, t = raise e s) (exec i s) := by
  cases i with
  | addAImm | subAImm | decA => exact answers_next (.inl ⟨_, rfl⟩)
  | addARn | subARn => exact answers_withRegister (fun _ => .inr ⟨_, rfl⟩) (fun _ => answers_next (.inl ⟨_, rfl⟩))
  | _ => cases isArith

/-- Settles O46: the accumulator and `P` written, or an error raised. -/
theorem accumulatorMoveAndLogicFrame : Obligations.AccumulatorMoveAndLogicFrame := by
  intro i s t isMove answer
  obtain ⟨v, rfl⟩ | ⟨e, rfl⟩ := answers_exec_of_movesToAcc isMove t answer
  · exact ⟨rfl, rfl, rfl, rfl, rfl, rfl, rfl, rfl, rfl, fun _ => rfl, fun _ => rfl, fun _ _ => rfl, .inl rfl⟩
  · exact ⟨rfl, rfl, rfl, rfl, rfl, rfl, rfl, rfl, rfl, fun _ => rfl, fun _ => rfl, fun _ _ => rfl,
      .inr ⟨⟨e, rfl⟩, rfl, rfl⟩⟩

/-- Settles O47: the accumulator and the four arithmetic flags written, or an error raised. -/
theorem accumulatorArithmeticFrame : Obligations.AccumulatorArithmeticFrame := by
  intro i s t isArith answer
  obtain ⟨x, rfl⟩ | ⟨e, rfl⟩ := answers_exec_of_arithOnAcc isArith t answer
  · exact ⟨rfl, rfl, rfl, rfl, rfl, rfl, fun _ => rfl, fun _ => rfl, fun _ _ => rfl, .inl rfl⟩
  · exact ⟨rfl, rfl, rfl, rfl, rfl, rfl, fun _ => rfl, fun _ => rfl, fun _ _ => rfl, .inr ⟨⟨e, rfl⟩, rfl, rfl⟩⟩

/-- The flags that a store to a register's cell may leave: `MOV Rn,A` none new, `MOV Rn,#imm` a new `P`, `DEC Rn` new
arithmetic flags. -/
def StoreFlags (i : Instr) (n : Reg) (f g : Flags) : Prop :=
  g.f0 = f.f0 ∧ g.rs1 = f.rs1 ∧ g.rs0 = f.rs0 ∧ (i ≠ .decRn n → g.cy = f.cy ∧ g.ac = f.ac ∧ g.ov = f.ov) ∧
    ((i, n) ∈ movRnAForms → g = f)

theorem answers_exec_of_registerStore {n : Reg}
    (stores : (i, n) ∈ movRnAForms ∨ (∃ imm, i = .movRnImm n imm) ∨ i = .decRn n) :
    Answers (fun t => (∃ v g, t = { s with flags := g, data := s.data.set (regAddress n) v } ∧ StoreFlags i n s.flags g) ∨
      ∃ e, t = raise e s) (exec i s) := by
  obtain form | ⟨imm, rfl⟩ | rfl := stores
  · rw [exec_of_mem_movRnAForms s form]
    exact answers_storeRegister (fun _ => .inr ⟨_, rfl⟩)
      (fun _ => answers_next (.inl ⟨_, _, rfl, rfl, rfl, rfl, fun _ => ⟨rfl, rfl, rfl⟩, fun _ => rfl⟩))
  · exact answers_storeRegister (fun _ => .inr ⟨_, rfl⟩)
      (fun _ => answers_next (.inl ⟨_, _, rfl, rfl, rfl, rfl, fun _ => ⟨rfl, rfl, rfl⟩, by simp [movRnAForms]⟩))
  · exact answers_withRegister (fun _ => .inr ⟨_, rfl⟩) (fun _ => answers_storeRegister (fun _ => .inr ⟨_, rfl⟩)
      (fun _ => answers_next (.inl ⟨_, _, rfl, rfl, rfl, rfl, (absurd rfl ·), by simp [movRnAForms]⟩)))

/-- Settles O48: one cell and the flags of the form written, or an error raised. -/
theorem registerStoreFrame : Obligations.RegisterStoreFrame := by
  intro i n s t stores answer
  obtain ⟨v, g, rfl, f0, rs1, rs0, notDec, form⟩ | ⟨e, rfl⟩ := answers_exec_of_registerStore stores t answer
  · exact ⟨rfl, rfl, rfl, rfl, f0, rs1, rs0, notDec, form, fun _ ne => s.data.read_set_other .data v ne, fun _ => rfl,
      fun _ _ => rfl, .inl rfl⟩
  · exact ⟨rfl, rfl, rfl, rfl, rfl, rfl, rfl, fun _ => ⟨rfl, rfl, rfl⟩, fun _ => rfl, fun _ _ => rfl, fun _ => rfl,
      fun _ _ => rfl, .inr ⟨⟨e, rfl⟩, rfl, rfl⟩⟩

/-- Settles O49: one code cell and `P` written, or an error raised. -/
theorem codeStoreFrame : Obligations.CodeStoreFrame := by
  intro direct imm s t answer
  obtain ⟨-, done⟩ | ⟨-, raised⟩ := storeDirect_cases direct imm s (fun s1 => .next (writeParity imm s1))
  · cases done.symm.trans answer
    exact ⟨rfl, rfl, rfl, rfl, rfl, rfl, rfl, rfl, rfl, rfl, fun _ ne => s.code.read_set_other .code imm ne, fun _ => rfl,
      fun _ _ => rfl, .inl rfl⟩
  · cases raised.symm.trans answer
    exact ⟨rfl, rfl, rfl, rfl, rfl, rfl, rfl, rfl, rfl, rfl, fun _ _ => rfl, fun _ => rfl, fun _ _ => rfl,
      .inr ⟨⟨_, rfl⟩, rfl, rfl⟩⟩

/-- `SETB` keeps the status, or raises. -/
theorem Effect.setb_status {bit : Byte} (h : Effect s (.setb bit) t) :
    t.status = s.status ∨ ∃ e, t.status = .faulted e := by
  obtain ⟨-, kept⟩ | ⟨isHalt, -⟩ | ⟨e, -, rfl⟩ := h.status_cases
  · exact .inl kept
  · cases isHalt
  · exact .inr ⟨e, rfl⟩

/-- Settles O50: the writers of each field are other instructions or `SETB` of the field's own address. -/
theorem setbAndHaltFrame : Obligations.SetbAndHaltFrame := by
  refine ⟨fun bit s t answer => ?_, fun s t answer => ?_⟩
  · have effect := effect_of_exec answer
    obtain ⟨pc, dptr, f0, rs1, rs0, -, -⟩ := effect.keeps
    obtain ⟨cy, ac, ov⟩ := effect.writes_arith_flags
    refine ⟨pc, dptr, f0, rs1, rs0, fun ne => ?a, fun ne => ?b, fun ne => ?cy, fun ne => ?ov, fun ne => ?ac, fun ne => ?p,
      fun p k ne => ?pin, fun addr ne => ?data, fun addr => effect.keeps_code nofun, effect.setb_status⟩
    case a =>
      by_contra changed
      exact ne (by simpa [Instr.movesToAcc, Instr.arithOnAcc] using effect.writes_a changed)
    case b =>
      by_contra changed
      exact ne (by simpa using effect.writes_b changed)
    case cy =>
      by_contra changed
      exact ne (by simpa [Instr.arithmetic] using cy changed)
    case ov =>
      by_contra changed
      exact ne (by simpa [Instr.arithmetic] using ov changed)
    case ac =>
      by_contra changed
      exact ne (by simpa [Instr.arithmetic] using ac changed)
    case p =>
      by_contra changed
      exact ne (by simpa [Instr.movesToAcc, Instr.arithmetic] using effect.writes_p changed)
    case pin =>
      by_contra changed
      obtain ⟨-, _, same, routed⟩ := effect.writes_pin changed
      exact ne (Instr.setb.inj same ▸ routed)
    case data => exact effect.keeps_data (fun store => (dataStore_setb_eq_some_iff.1 store).elim ne)
  · cases (exec_halt s).symm.trans answer
    exact ⟨rfl, rfl, rfl, rfl, rfl, fun _ _ => rfl, fun _ => rfl, fun _ => rfl⟩

end Frames

/-! ### `SETB` (spec/45_setb_bit_router.md R230, R233) -/

/-- Settles O42: the address selects the pin, and driving it high leaves every other pin. -/
theorem setbPin : Obligations.SetbPin := by
  intro bit p k s port addr
  have routed : routeBit (zext16 bit) = .ok (.pin p k) := routeBit_of_pin port ((zext16_toNat bit).trans addr)
  exact ⟨_, bitRoute_of_ok s routed, fun q j => s.pin_setPin p q k j⟩

theorem cellsInsert_idem (cells : List Host.Cell) (addr : Nat) (v : Byte) :
    cellsInsert (cellsInsert cells addr v) addr v = cellsInsert cells addr v := by
  induction cells with
  | nil => simp [cellsInsert]
  | cons c rest ih =>
    obtain ⟨k, x⟩ := c
    rcases Nat.lt_trichotomy addr k with lt | rfl | gt
    · simp [cellsInsert, lt]
    · simp [cellsInsert]
    · simp [cellsInsert, Nat.lt_asymm gt, Nat.ne_of_gt gt, ih]

/-- Storing the same byte again leaves the same array, whatever its cells. -/
theorem Memory.set_idem (m : Memory) (addr : Nat) (v : Byte) : (m.set addr v).set addr v = m.set addr v := by
  simp only [Memory.set, cellsSet]
  split
  · simp [cellsErase]
  · rw [cellsInsert_idem]

theorem orBit_idem (v : Byte) (k : Fin 8) : orBit (orBit v k) k = orBit v k := by
  rw [orBit, orBit, BitVec.or_assoc, BitVec.or_self]

/-- Setting a bit loses none. -/
theorem and_orBit (v : Byte) (k : Fin 8) : v &&& orBit v k = v := by
  ext j hj
  simp only [orBit, BitVec.getElem_and, BitVec.getElem_or]
  cases v[j] <;> simp

theorem State.setPin_idem (s : State) (p : Fin 4) (k : Fin 8) : (s.setPin p k).setPin p k = s.setPin p k := by
  simp [State.setPin, State.setPins, Vector.get_eq_getElem]

/-- Setting a set bit again changes nothing. -/
theorem BitTarget.raised_idem (x : BitTarget) (s : State) : x.raised (x.raised s) = x.raised s := by
  cases x with
  | dataBit i k =>
    simp only [BitTarget.raised, State.setData_data, Memory.get_set_same, orBit_idem]
    exact congrArg s.setData (s.data.set_idem i _)
  | accBit k => exact congrArg s.setA (orBit_idem s.a k)
  | bRegBit k => exact congrArg s.setB (orBit_idem s.b k)
  | carry | overflow | auxCarry | parityFlag => rfl
  | pin p k => exact s.setPin_idem p k

/-- Raising one flag loses no bit of the packed byte. -/
theorem packed_and_raised (f : Flags) :
    f.packed &&& { f with cy := true }.packed = f.packed ∧ f.packed &&& { f with ov := true }.packed = f.packed ∧
    f.packed &&& { f with ac := true }.packed = f.packed ∧ f.packed &&& { f with p := true }.packed = f.packed := by
  obtain ⟨cy, ac, f0, rs1, rs0, ov, p⟩ := f
  revert cy ac f0 rs1 rs0 ov p
  decide

/-- Setting a bit clears none, of the accumulator, `B`, data space, the flags and the pins. -/
theorem BitTarget.raised_clears_nothing (x : BitTarget) (s : State) :
    s.a &&& (x.raised s).a = s.a ∧ s.b &&& (x.raised s).b = s.b ∧
    (∀ addr, s.data.get addr &&& (x.raised s).data.get addr = s.data.get addr) ∧
    s.flags.packed &&& (x.raised s).flags.packed = s.flags.packed ∧
    (∀ p k, s.pin p k = true → (x.raised s).pin p k = true) := by
  obtain ⟨cy, ov, ac, p⟩ := packed_and_raised s.flags
  have a := BitVec.and_self (x := s.a)
  have b := BitVec.and_self (x := s.b)
  have flags := BitVec.and_self (x := s.flags.packed)
  have data (addr : Nat) := BitVec.and_self (x := s.data.get addr)
  have pins (p : Fin 4) (k : Fin 8) (high : s.pin p k = true) := high
  cases x with
  | dataBit i k =>
    refine ⟨a, b, fun addr => ?_, flags, pins⟩
    simp only [BitTarget.raised, State.setData_data, Memory.get_set]
    split
    · next same => rw [same, and_orBit]
    · exact data addr
  | accBit k => exact ⟨and_orBit s.a k, b, data, flags, pins⟩
  | bRegBit k => exact ⟨a, and_orBit s.b k, data, flags, pins⟩
  | carry => exact ⟨a, b, data, cy, pins⟩
  | overflow => exact ⟨a, b, data, ov, pins⟩
  | auxCarry => exact ⟨a, b, data, ac, pins⟩
  | parityFlag => exact ⟨a, b, data, p, pins⟩
  | pin q j =>
    refine ⟨a, b, data, flags, fun p k high => ?_⟩
    rw [BitTarget.raised, State.pin_setPin, high, ite_self]

/-- A `SETB` that leaves the run going has set the bit it selects. -/
theorem Effect.setb_completed {bit : Byte} {s t : State} (h : Effect s (.setb bit) t) (going : t.status = .running) :
    ∃ x, routeBit (zext16 bit) = .ok x ∧ x.InBounds s ∧ t = x.raised s := by
  cases h with
  | setBit routed inBounds => exact ⟨_, routed, inBounds, rfl⟩
  | acc _ isMove => cases isMove
  | arith _ isArith => cases isArith
  | store form => simp [movRnAForms] at form
  | error => cases going

/-- Settles O45: setting one bit is idempotent, clears nothing, and keeps the rest. -/
theorem setbIsIdempotentAndClearsNothing : Obligations.SetbIsIdempotentAndClearsNothing := by
  intro bit s t _ answer going
  obtain ⟨x, routed, inBounds, rfl⟩ := (effect_of_exec answer).setb_completed going
  obtain ⟨pc, dptr, f0, rs1, rs0, code, length, -⟩ := x.raised_keeps s
  obtain ⟨a, b, data, flags, pins⟩ := x.raised_clears_nothing s
  have again : exec (.setb bit) (x.raised s) = .next (x.raised s) := by
    have inBounds' : x.InBounds (x.raised s) := fun i k e => length ▸ inBounds i k e
    rw [exec_setb, bitRoute_of_ok _ routed, setTarget_of_inBounds inBounds', x.raised_idem]
  exact ⟨again, a, b, data, flags, pins, pc, dptr, f0, rs1, rs0, code⟩

end Sys2Proof.Machine

/-! ### What no instruction writes (spec/10_state.md R23, R25, R31, R40) -/

namespace Sys2Proof.Machine

section Untouched

variable {i : Instr} {s t : State}

/-- `B` is 0x00 or 0x01, and setting bit 0 keeps it so. -/
theorem orBit_zero_of_zero_or_one {v : Byte} (h : v = 0x00#8 ∨ v = 0x01#8) :
    orBit v 0 = 0x00#8 ∨ orBit v 0 = 0x01#8 := by
  obtain rfl | rfl := h <;> exact .inr rfl

theorem Effect.keeps_b_small (h : Effect s i t) (small : s.b = 0x00#8 ∨ s.b = 0x01#8) : t.b = 0x00#8 ∨ t.b = 0x01#8 := by
  cases h with
  | @setBit bit x routed =>
    cases x with
    | bRegBit k =>
      obtain ⟨-, rfl⟩ := claimedAt_of_routeBit routed
      exact orBit_zero_of_zero_or_one small
    | _ => exact small
  | _ => exact small

theorem Effect.keeps_port3 (h : Effect s i t) (k : Fin 8) : t.pin 3 k = s.pin 3 k := by
  by_contra changed
  obtain ⟨-, bit, -, routed⟩ := h.writes_pin changed
  exact absurd (claimedAt_of_routeBit routed).2 (by decide)

theorem Effect.untouched (h : Effect s i t) (before : s.Untouched) : t.Untouched := by
  obtain ⟨-, dptr, f0, rs1, rs0, -, -⟩ := h.keeps
  exact ⟨dptr.trans before.dptr, f0.trans before.f0, rs1.trans before.rs1, rs0.trans before.rs0,
    h.keeps_b_small before.b, fun k => (h.keeps_port3 k).trans (before.port3 k)⟩

/-- Moving the program counter or raising an error touches none of it. -/
theorem untouched_setPc (before : s.Untouched) (pc : Addr) : (s.setPc pc).Untouched :=
  ⟨before.dptr, before.f0, before.rs1, before.rs0, before.b, before.port3⟩

theorem untouched_raise (before : s.Untouched) (e : ErrorValue) : (raise e s).Untouched :=
  ⟨before.dptr, before.f0, before.rs1, before.rs0, before.b, before.port3⟩

/-- Settles O60: the fetches move `PC`, and no effect writes the rest. -/
theorem stepKeepsTheUntouchedState : Obligations.StepKeepsTheUntouchedState := by
  intro s t before answer
  obtain ⟨pc, ⟨i, effect⟩ | ⟨e, rfl⟩⟩ := step_effect answer
  · exact effect.untouched (untouched_setPc before pc)
  · exact untouched_raise (untouched_setPc before pc) e

end Untouched

/-! ### What can never be seen (spec/10_state.md R23, R25, R26, R40) -/

/-- The state with other values in all that no instruction reads. -/
def State.withUnread (s : State) (b : Byte) (dptr : Addr) (flags : Flags) (pins : Pins) : State :=
  { s with b := b, dptr := dptr, flags := flags, pins := pins }

/-- The states agree on all that steers execution. -/
structure Agree (s s' : State) : Prop where
  pc : s.pc = s'.pc
  a : s.a = s'.a
  code : s.code = s'.code
  data : s.data = s'.data
  status : s.status = s'.status

theorem Agree.exists_withUnread {s s' : State} (h : Agree s s') :
    ∃ b dptr flags pins, s' = s.withUnread b dptr flags pins := by
  obtain ⟨pc, a, code, data, status⟩ := h
  refine ⟨s'.b, s'.dptr, s'.flags, s'.pins, ?_⟩
  rw [State.withUnread, pc, a, code, data, status]

/-- Both results are next states, and these agree. -/
def AnswerAlike (r r' : Result) : Prop :=
  ∃ t t', r = .next t ∧ r' = .next t' ∧ Agree t t'

theorem alike_next {t t' : State} (h : Agree t t') : AnswerAlike (.next t) (.next t') :=
  ⟨t, t', rfl, rfl, h⟩

section Alike

variable {s : State} {b : Byte} {dptr : Addr} {flags : Flags} {pins : Pins}

theorem alike_withRegister {n : Reg} {k k' : Byte → Result} (goes : ∀ v, AnswerAlike (k v) (k' v)) :
    AnswerAlike (withRegister n s k) (withRegister n (s.withUnread b dptr flags pins) k') := by
  rcases Nat.lt_or_ge n.val s.data.length with lt | le
  · rw [withRegister_of_lt lt, withRegister_of_lt (s := s.withUnread b dptr flags pins) lt]
    exact goes _
  · rw [withRegister_of_le le, withRegister_of_le (s := s.withUnread b dptr flags pins) le]
    exact alike_next ⟨rfl, rfl, rfl, rfl, rfl⟩

theorem alike_storeRegister {n : Reg} {v : Byte} {k k' : State → Result}
    (goes : ∀ m, AnswerAlike (k (s.setData m)) (k' ((s.withUnread b dptr flags pins).setData m))) :
    AnswerAlike (storeRegister n v s k) (storeRegister n v (s.withUnread b dptr flags pins) k') := by
  rcases Nat.lt_or_ge n.val s.data.length with lt | le
  · rw [storeRegister_of_lt lt, storeRegister_of_lt (s := s.withUnread b dptr flags pins) lt]
    exact goes _
  · rw [storeRegister_of_le le, storeRegister_of_le (s := s.withUnread b dptr flags pins) le]
    exact alike_next ⟨rfl, rfl, rfl, rfl, rfl⟩

theorem alike_storeDirect {direct v : Byte} {k k' : State → Result}
    (goes : ∀ m, AnswerAlike (k (s.setCode m)) (k' ((s.withUnread b dptr flags pins).setCode m))) :
    AnswerAlike (storeDirect direct v s k) (storeDirect direct v (s.withUnread b dptr flags pins) k') := by
  rcases Nat.lt_or_ge direct.toNat s.code.length with lt | le
  · rw [storeDirect_of_lt lt, storeDirect_of_lt (s := s.withUnread b dptr flags pins) lt]
    exact goes _
  · rw [storeDirect_of_le le, storeDirect_of_le (s := s.withUnread b dptr flags pins) le]
    exact alike_next ⟨rfl, rfl, rfl, rfl, rfl⟩

theorem alike_setTarget (x : BitTarget) : AnswerAlike (setTarget x s) (setTarget x (s.withUnread b dptr flags pins)) := by
  cases x with
  | dataBit i k =>
    obtain ⟨lt, e⟩ | ⟨le, e⟩ := setTarget_dataBit_cases i k s <;>
      obtain ⟨lt', e'⟩ | ⟨le', e'⟩ := setTarget_dataBit_cases i k (s.withUnread b dptr flags pins)
    · rw [e, e']; exact alike_next ⟨rfl, rfl, rfl, rfl, rfl⟩
    · exact absurd lt (Nat.not_lt.2 le')
    · exact absurd lt' (Nat.not_lt.2 le)
    · rw [e, e']; exact alike_next ⟨rfl, rfl, rfl, rfl, rfl⟩
  | accBit | bRegBit | carry | overflow | auxCarry | parityFlag | pin => exact alike_next ⟨rfl, rfl, rfl, rfl, rfl⟩

/-- The router's selection takes no state (R233). -/
theorem alike_bitRoute (addr : Addr) :
    AnswerAlike (bitRoute addr s) (bitRoute addr (s.withUnread b dptr flags pins)) := by
  cases routed : routeBit addr with
  | error e =>
    rw [bitRoute_of_error _ routed, bitRoute_of_error _ routed]
    exact alike_next ⟨rfl, rfl, rfl, rfl, rfl⟩
  | ok x =>
    rw [bitRoute_of_ok _ routed, bitRoute_of_ok _ routed]
    exact alike_setTarget x

/-- No instruction reads `B`, `DPTR`, a flag or a pin. -/
theorem alike_exec_withUnread (i : Instr) : AnswerAlike (exec i s) (exec i (s.withUnread b dptr flags pins)) := by
  cases i with
  | clrA | cplA | movAImm | addAImm | subAImm | decA | orlAImm | anlAImm | xrlAImm | halt =>
    exact alike_next ⟨rfl, rfl, rfl, rfl, rfl⟩
  | movARn | addARn | subARn | orlARn | anlARn | xrlARn =>
    exact alike_withRegister (fun _ => alike_next ⟨rfl, rfl, rfl, rfl, rfl⟩)
  | movR0A | movR1A | movR2A | movR3A | movR4A | movR5A | movR6A | movRnImm =>
    exact alike_storeRegister (fun _ => alike_next ⟨rfl, rfl, rfl, rfl, rfl⟩)
  | movDirectImm => exact alike_storeDirect (fun _ => alike_next ⟨rfl, rfl, rfl, rfl, rfl⟩)
  | decRn =>
    exact alike_withRegister (fun _ => alike_storeRegister (fun _ => alike_next ⟨rfl, rfl, rfl, rfl, rfl⟩))
  | setb bit => exact alike_bitRoute (zext16 bit)

end Alike

theorem alike_exec {s s' : State} (i : Instr) (h : Agree s s') : AnswerAlike (exec i s) (exec i s') := by
  obtain ⟨b, dptr, flags, pins, rfl⟩ := h.exists_withUnread
  exact alike_exec_withUnread i

theorem Agree.setPc {s s' : State} (h : Agree s s') (pc : Addr) : Agree (s.setPc pc) (s'.setPc pc) :=
  ⟨rfl, h.a, h.code, h.data, h.status⟩

theorem Agree.raise {s s' : State} (h : Agree s s') (e : ErrorValue) : Agree (raise e s) (raise e s') :=
  ⟨h.pc, h.a, h.code, h.data, rfl⟩

/-- Running states that agree fetch alike, and then execute or raise alike. -/
theorem alike_step {s s' : State} (h : Agree s s') (running : s.status = .running) : AnswerAlike (step s) (step s') := by
  have running' : s'.status = .running := h.status ▸ running
  have matched := fetchInstr_matched h.pc h.code
  generalize fetched : fetchInstr s = r, fetched' : fetchInstr s' = r' at matched
  cases matched with
  | ok i moved =>
    obtain ⟨pc, rfl, rfl⟩ := moved
    rw [step_of_fetchInstr_ok running fetched, step_of_fetchInstr_ok running' fetched']
    exact alike_exec i (h.setPc pc)
  | @error x y moved =>
    obtain ⟨e, t⟩ := x
    obtain ⟨e', t'⟩ := y
    obtain ⟨rfl, pc, rfl, rfl⟩ := moved
    rw [step_of_fetchInstr_error running fetched, step_of_fetchInstr_error running' fetched']
    exact alike_next ((h.setPc pc).raise e)

/-- Settles O55: running states step alike, and ended runs answer the same stop. -/
theorem flagsAndPinsNeverSteerExecution : Obligations.FlagsAndPinsNeverSteerExecution := by
  intro s s' pc a code data status
  cases ended : s.status with
  | running =>
    obtain ⟨t, t', answer, answer', agree⟩ := alike_step ⟨pc, a, code, data, status⟩ ended
    exact .inl ⟨t, t', answer, answer', agree.pc, agree.a, agree.code, agree.data, agree.status⟩
  | halted => exact .inr ⟨_, step_of_halted ended, step_of_halted (status ▸ ended)⟩
  | faulted e => exact .inr ⟨_, step_of_faulted ended, step_of_faulted (status ▸ ended)⟩

end Sys2Proof.Machine

/-! ### Steps from a legal state (spec/40_sequencer.md R120 to R128) -/

namespace Sys2Proof

theorem complete_nextByte_error {form : OpForm} {bytes rest : List Byte} {e : DecodeError}
    (h : form.complete nextByte bytes = .error (e, rest)) : e = .endOfBytes := by
  match form, bytes, h with
  | .one _, [], rfl => rfl
  | .two _, [], rfl => rfl
  | .two _, [_], rfl => rfl

/-- The decoder refuses as unsupported only an opcode byte that the opcode map does not list (R103). -/
theorem opcodeLength_of_decode_unsupported {bytes : List Byte} {op : Byte}
    (h : decode bytes = .error (.unsupportedOpcode op)) : bytes[0]? = some op ∧ opcodeLength op = none := by
  cases bytes with
  | nil => cases h
  | cons first operands =>
    rw [decode] at h
    split at h
    · cases h
    · next notHalt =>
      split at h
      · next none =>
        cases h
        exact ⟨rfl, by rw [← opcodeLength_of_ne_haltByte op notHalt, none]; rfl⟩
      · split at h
        · cases h
        · next cut => cases h; cases complete_nextByte_error cut

theorem length_bounds (i : Instr) : 1 ≤ i.length ∧ i.length ≤ 3 := by
  cases i <;> simp [Instr.length]

theorem consumed_le_length (i : Instr) : i.consumed ≤ i.length := by
  by_cases isHalt : i = .halt
  · subst isHalt; decide
  · exact Nat.le_of_eq (consumed_of_ne_halt isHalt)

end Sys2Proof

namespace Sys2Proof.Machine

section Legal

variable {i : Instr} {s t : State}

/-- All that a step from a legal running state can do (R120, R126; spec/30_encoding.md R103). -/
inductive LegalStep (s t : State) : Prop
  /-- The instruction encoded from `PC` on has run, with `PC` past the bytes consumed. -/
  | executed (i : Instr) (rest : List Byte) (bytes : s.codeFromPc = encode i ++ rest) (pc : Addr)
      (moved : pc.toNat = s.pc.toNat + i.consumed) (bound : pc.toNat ≤ s.code.length)
      (effect : Effect (s.setPc pc) i t)
  /-- The byte at `PC` is no opcode. -/
  | unsupported (op : Byte) (read : readCode s s.pc.toNat = .ok op) (noLength : opcodeLength op = none)
      (raised : t = raise (.unsupportedOpcode op) (s.setPc (s.pc + 1#16)))
  /-- The bytes of code space have run out. -/
  | outOfCode (raised : t = raise (.addressError .code s.code.length s.code.length)
      (s.setPc (BitVec.ofNat 16 s.code.length)))

/-- Within the bytes of code space no increment wraps. -/
theorem pc_add_consumed_toNat {rest : List Byte} (inv : s.Inv) (bytes : s.codeFromPc = encode i ++ rest) :
    (s.pc + BitVec.ofNat 16 i.consumed).toNat = s.pc.toNat + i.consumed ∧ s.pc.toNat + i.consumed ≤ s.code.length := by
  have lengths := congrArg List.length bytes
  rw [codeFromPc_length, List.length_append, encode_length] at lengths
  have short := consumed_le_length i
  have size := inv.codeSize
  have start := inv.pcBound
  have long := length_bounds i
  simp only [Config.maxCodeSize] at size
  have bound : s.pc.toNat + i.consumed ≤ s.code.length := by omega
  refine ⟨?_, bound⟩
  rw [BitVec.toNat_add, BitVec.toNat_ofNat]
  omega

theorem legalStep (inv : s.Inv) (answer : step s = .next t) : LegalStep s t := by
  obtain ⟨runs, unsupported, ends⟩ := stepIsDecodeThenExecute s inv (running_of_step answer)
  cases decoded : decode s.codeFromPc with
  | ok r =>
    obtain ⟨i, rest⟩ := r
    have bytes := decode_eq_ok_iff.1 decoded
    obtain ⟨moved, bound⟩ := pc_add_consumed_toNat inv bytes
    exact .executed i rest bytes _ moved (moved.trans_le bound)
      (effect_of_exec ((runs i rest decoded).symm.trans answer))
  | error e =>
    cases e with
    | endOfBytes => exact .outOfCode (Host.Outcome.next.inj (answer.symm.trans (ends decoded)))
    | unsupportedOpcode op =>
      obtain ⟨first, noLength⟩ := opcodeLength_of_decode_unsupported decoded
      exact .unsupported op (readCode_of_codeFromPc first) noLength
        (Host.Outcome.next.inj (answer.symm.trans (unsupported op decoded)))

/-! The legal state is kept -/

theorem BitTarget.raised_data_wf {x : BitTarget} (h : s.data.wf) (inBounds : x.InBounds s) : (x.raised s).data.wf := by
  cases x with
  | dataBit i k => exact Memory.set_wf _ h (inBounds i k rfl)
  | accBit | bRegBit | carry | overflow | auxCarry | parityFlag | pin => exact h

/-- Every store is within bounds, so both arrays keep their canonical form. -/
theorem Effect.wf (h : Effect s i t) (code : s.code.wf) (data : s.data.wf) : t.code.wf ∧ t.data.wf := by
  cases h with
  | acc | arith | halt | error => exact ⟨code, data⟩
  | store _ lt | storeImm _ _ lt | dec _ _ lt => exact ⟨code, Memory.set_wf _ data lt⟩
  | storeCode _ _ lt => exact ⟨Memory.set_wf _ code lt, data⟩
  | @setBit bit x _ inBounds =>
    obtain ⟨-, -, -, -, -, sameCode, -⟩ := x.raised_keeps s
    exact ⟨sameCode ▸ code, x.raised_data_wf data inBounds⟩

/-- A legal state with another program counter within code space, and with any status, is legal. -/
theorem inv_of_moved (inv : s.Inv) (code : t.code = s.code) (data : t.data = s.data)
    (bound : t.pc.toNat ≤ s.code.length) : t.Inv :=
  ⟨code ▸ inv.codeSize, code ▸ bound, code ▸ inv.codeWf, data ▸ inv.dataWf⟩

theorem codeLength_toNat (inv : s.Inv) : (BitVec.ofNat 16 s.code.length).toNat = s.code.length := by
  have size := inv.codeSize
  simp only [Config.maxCodeSize] at size
  rw [BitVec.toNat_ofNat]
  omega

/-- The fetches of a byte that is there leave `PC` within code space. -/
theorem pc_add_one_le (inv : s.Inv) {op : Byte} (read : readCode s s.pc.toNat = .ok op) :
    (s.pc + 1#16).toNat = s.pc.toNat + 1 ∧ s.pc.toNat + 1 ≤ s.code.length := by
  have lt := (readCode_eq_ok.1 read).1
  exact ⟨pc_add_one_toNat inv.codeSize lt, lt⟩

/-- Settles O59: the effect keeps the sizes and the canonical form, and the fetches stay within code space. -/
theorem stepKeepsTheLegalState : Obligations.StepKeepsTheLegalState := by
  intro s t inv answer
  cases legalStep inv answer with
  | executed i rest bytes pc moved bound effect =>
    obtain ⟨samePc, -, -, -, -, codeLength, dataLength⟩ := effect.keeps
    obtain ⟨codeWf, dataWf⟩ := effect.wf inv.codeWf inv.dataWf
    simp only [State.setPc_pc, State.setPc_code, State.setPc_data] at samePc codeLength dataLength
    exact ⟨⟨codeLength ▸ inv.codeSize, by rw [samePc, codeLength]; exact bound, codeWf, dataWf⟩, codeLength, dataLength⟩
  | unsupported op read noLength raised =>
    subst raised
    obtain ⟨pc, bound⟩ := pc_add_one_le inv read
    exact ⟨inv_of_moved inv rfl rfl (pc.trans_le bound), rfl, rfl⟩
  | outOfCode raised =>
    subst raised
    exact ⟨inv_of_moved inv rfl rfl (Nat.le_of_eq (codeLength_toNat inv)), rfl, rfl⟩

/-! Progress and termination (R128) -/

/-- Settles O18: a step that goes on has run an instruction, and consumed its bytes. -/
theorem runningStepAdvancesThePc : Obligations.RunningStepAdvancesThePc := by
  intro s t inv answer going
  cases legalStep inv answer with
  | executed i rest bytes pc moved bound effect =>
    obtain ⟨ne, -⟩ | ⟨-, halted⟩ | ⟨e, -, raised⟩ := effect.status_cases
    · rw [consumed_of_ne_halt ne] at moved
      have length := length_bounds i
      rw [effect.keeps.1, State.setPc_pc]
      omega
    · cases halted.symm.trans going
    · subst raised; cases going
  | unsupported op read noLength raised => subst raised; cases going
  | outOfCode raised => subst raised; cases going

theorem core_run_succ (answer : step s = .next t) (k : Nat) : Sys2Proof.core.run (k + 1) s = Sys2Proof.core.run k t := by
  have coreStep : Sys2Proof.core.step s = .next t := answer
  simp only [Host.Core.run, coreStep]

/-- A run of a legal state ends before it has taken more steps than there are bytes left, and one. -/
theorem exists_run_ended (n : Nat) (s : State) (inv : s.Inv) (running : s.status = .running)
    (left : s.code.length - s.pc.toNat < n) :
    ∃ k t, k ≤ n ∧ Sys2Proof.core.run k s = .next t ∧ (t.status = .halted ∨ ∃ e, t.status = .faulted e) := by
  induction n generalizing s with
  | zero => cases left
  | succ n ih =>
    obtain ⟨t, answer⟩ := exists_step_of_running running
    cases status : t.status with
    | halted => exact ⟨1, t, by omega, core_run_succ answer 0, .inl status⟩
    | faulted e => exact ⟨1, t, by omega, core_run_succ answer 0, .inr ⟨e, status⟩⟩
    | running =>
      obtain ⟨inv', codeLength, -⟩ := stepKeepsTheLegalState s t inv answer
      obtain ⟨advanced, -, bound⟩ := runningStepAdvancesThePc s t inv answer status
      obtain ⟨k, u, le, run, ended⟩ := ih t inv' status (by omega)
      exact ⟨k + 1, u, Nat.succ_le_succ le, (core_run_succ answer k).trans run, ended⟩

/-- Settles O19: at most `CODE_SIZE` bytes are left, by induction on their number. -/
theorem everyRunEndsWithinCodeSizePlusOneSteps : Obligations.EveryRunEndsWithinCodeSizePlusOneSteps :=
  fun s inv running => exists_run_ended (s.code.length + 1) s inv running (by omega)

/-! The errors of a step (spec/60_exceptions.md R252) -/

/-- The errors of `SETB` other than a data bit out of bounds: the operand is an unnamed flag or is unclaimed. -/
theorem routeBit_zext16_error {bit : Byte} {e : ErrorValue} (h : routeBit (zext16 bit) = .error e) :
    (e = .unknownFlagBit (zext16 bit) ∧ bit ∈ [0xB0#8, 0xB1#8, 0xB3#8, 0xB6#8, 0xB7#8]) ∨
    (e = .invalidBitAddress (zext16 bit) ∧ unclaimedBit bit = true) := by
  have lt : bit.toNat < 256 := bit.isLt
  obtain ⟨-, code⟩ | ⟨rfl, flag⟩ | ⟨rfl, unclaimed⟩ := routeBit_error_cases h
  · rw [zext16_toNat] at code
    omega
  · rw [zext16_toNat] at flag
    refine .inl ⟨rfl, ?_⟩
    simpa [← BitVec.toNat_inj] using flag
  · rw [UnclaimedAddr, zext16_toNat] at unclaimed
    refine .inr ⟨rfl, ?_⟩
    simp only [unclaimedBit, List.any_cons, List.any_nil, Bool.or_eq_true, Bool.and_eq_true, decide_eq_true_iff]
    omega

/-- Settles O57: the fetches' two errors, and each error that an instruction's effect can raise. -/
theorem stepErrorsAreThoseOfTheTable : Obligations.StepErrorsAreThoseOfTheTable := by
  intro s t e inv answer faulted
  have running := running_of_step answer
  cases legalStep inv answer with
  | outOfCode raised =>
    subst raised
    cases faulted
    have atEnd := codeLength_toNat inv
    exact .inl ⟨by rw [raise_pc, State.setPc_pc, atEnd], atEnd⟩
  | unsupported op read noLength raised =>
    subst raised
    cases faulted
    exact .inr (.inl ⟨op, rfl, read, noLength, (pc_add_one_le inv read).1⟩)
  | executed i rest bytes pc moved bound effect =>
    obtain ⟨-, kept⟩ | ⟨-, halted⟩ | ⟨e', raises, raised⟩ := effect.status_cases
    · cases faulted.symm.trans (kept.trans running)
    · cases faulted.symm.trans halted
    · subst raised
      cases faulted
      have short := consumed_le_length i
      cases raises with
      | register n twoBytes le =>
        exact .inr (.inr (.inr (.inl ⟨regAddress n, rfl, le, n.isLt.trans (by decide), by
          simp only [raise_pc, State.setPc_pc]; omega⟩)))
      | direct direct imm le =>
        have read : readCode s (s.pc.toNat + 0) = .ok 0x75#8 := readCode_of_codeFromPc (by rw [bytes]; rfl)
        have oneByte : directAddress direct < 256 := codeStore_lt (i := .movDirectImm direct imm) rfl
        exact .inr (.inr (.inl ⟨directAddress direct, rfl, le, oneByte, read, moved⟩))
      | dataBit routed le =>
        exact .inr (.inr (.inr (.inl ⟨_, rfl, le, (claimedAt_of_routeBit routed).2, moved.le⟩)))
      | @router bit _ routed =>
        have first : readCode s (s.pc.toNat + 0) = .ok 0xD2#8 := readCode_of_codeFromPc (by rw [bytes]; rfl)
        have second : readCode s (s.pc.toNat + 1) = .ok bit := readCode_of_codeFromPc (by rw [bytes]; rfl)
        exact .inr (.inr (.inr (.inr ⟨bit, first, second, moved, routeBit_zext16_error routed⟩)))

end Legal

end Sys2Proof.Machine
